-- ==== Sys2Proof/Word.lean ====
section
/-! DEFINITION. The word types of the RCx8 and its eight register names (spec rules R5, R20). -/

namespace Sys2Proof

/-- The addressable unit, a register, the accumulator, an immediate or a port number: 8 bits (R5). -/
abbrev Byte := BitVec 8

/-- A RAM address, the program counter or a stacked return address: 16 bits (R5, R28). -/
abbrev Addr := BitVec 16

/-- The low half OPA of an opcode byte where it is a field: DDDD or C1 C2 C3 C4 (R84, R88). -/
abbrev Nibble := BitVec 4

/-- The eight general registers (R20). They have no other names, no banks and no aliases. -/
inductive Reg where
  | r0 | r1 | r2 | r3 | r4 | r5 | r6 | r7
  deriving DecidableEq, Repr

end Sys2Proof
end

