-- ==== Sys2Proof/Machine/Flags.lean ====
section
/-! DEFINITION. The arithmetic that writes the carry flag: each result is computed exactly on integers, then narrowed
(spec rules R26, R131; the spec's own decisions D7 and D8, assumption 18). -/

namespace Sys2Proof.Machine

/-- The exact sum of two bytes and a carry in. -/
def exactSum (a b : Byte) (c : Bool) : Nat := a.toNat + b.toNat + c.toNat

/-- The sum modulo 256. -/
def sumByte (a b : Byte) (c : Bool) : Byte := BitVec.ofNat 8 (exactSum a b c)

/-- The carry out of bit 7. -/
def sumCarry (a b : Byte) (c : Bool) : Bool := decide (256 ≤ exactSum a b c)

/-- The exact difference of two bytes and a borrow in. -/
def exactDiff (a b : Byte) (c : Bool) : Int := (a.toNat : Int) - b.toNat - c.toNat

/-- The difference modulo 256, the non-negative residue. -/
def diffByte (a b : Byte) (c : Bool) : Byte := BitVec.ofInt 8 (exactDiff a b c)

/-- The borrow: whether the exact difference is negative. -/
def diffBorrow (a b : Byte) (c : Bool) : Bool := decide (exactDiff a b c < 0)

/-- One place to the left, the carry into bit 0 (R165). -/
def rollLeft (a : Byte) (c : Bool) : Byte := a.extractLsb' 0 7 ++ BitVec.ofBool c

/-- The bit that a roll to the left moves into the carry: old bit 7 (R165). -/
def rollLeftCarry (a : Byte) : Bool := a.getLsbD 7

/-- One place to the right, the carry into bit 7 (R166). -/
def rollRight (a : Byte) (c : Bool) : Byte := BitVec.ofBool c ++ a.extractLsb' 1 7

/-- The bit that a roll to the right moves into the carry: old bit 0 (R166). -/
def rollRightCarry (a : Byte) : Bool := a.getLsbD 0

/-- `zext_8(C)`: the carry in bit 0 and zeros above it (R167). -/
def carryByte (c : Bool) : Byte := BitVec.ofNat 8 c.toNat

end Sys2Proof.Machine
end

