-- ==== Sys2Proof/Syntax.lean ====
section
/-! DEFINITION. The 36 instructions of the RCx8, one constructor for each row of spec/opcode_table.json, in the
table's order (spec rule R97). -/

namespace Sys2Proof

/-- An instruction with its operands. `r` is the register RRR (R91), `addr` the absolute 16-bit address (R94), `c` the
condition bits C1 C2 C3 C4 from the most significant down (R95), `d` an immediate (R92, R93), `p` a port number (R93).
Every value of every operand type is legal (R100), so the types leave no ill-formed instruction. -/
inductive Instr where
  | nop
  | jcn (c : Nibble) (addr : Addr)
  | fim (r : Reg) (d : Byte)
  | zer (r : Reg)
  | fin (r : Reg)
  | ftc (r : Reg) (addr : Addr)
  | jun (addr : Addr)
  | jms (addr : Addr)
  | inc (r : Reg)
  | ino (r : Reg)
  | isz (r : Reg) (addr : Addr)
  | sto (r : Reg) (addr : Addr)
  | add (r : Reg)
  | xor (r : Reg)
  | sub (r : Reg)
  | sti (r : Reg)
  | ld (r : Reg)
  | xch (r : Reg)
  | bbl (d : Nibble)
  | ldm (d : Nibble)
  | wmp (p : Byte)
  | rdr (p : Byte)
  | kbi
  | asc
  | clb
  | clc
  | iac
  | cmc
  | cma
  | ral
  | rar
  | tcc
  | dac
  | stc
  | daa
  | hlt
  deriving DecidableEq, Repr

end Sys2Proof
end

