-- ==== Sys2Proof/Decode.lean ====
section
/-! DEFINITION. The decoder, total on any bytes, and the encoder, both written from the opcode map of spec rule R97. -/

namespace Sys2Proof

/-- The number 0 to 7 that RRR holds for a register: R0 is 0, R7 is 7 (R21; the spec's own decision D30). -/
def Reg.index : Reg → Nat
  | .r0 => 0
  | .r1 => 1
  | .r2 => 2
  | .r3 => 3
  | .r4 => 4
  | .r5 => 5
  | .r6 => 6
  | .r7 => 7

/-- The register field RRR of an opcode byte, bits 3 to 1 (R91). -/
def regField (b : Byte) : Reg :=
  match (b.toNat / 2) % 8 with
  | 0 => .r0
  | 1 => .r1
  | 2 => .r2
  | 3 => .r3
  | 4 => .r4
  | 5 => .r5
  | 6 => .r6
  | _ => .r7

/-- The low nibble of an opcode byte, bits 3 to 0: DDDD, or C1 C2 C3 C4 (R92, R95). -/
def nibbleField (b : Byte) : Nibble := b.extractLsb' 0 4

/-- A 16-bit address operand from its two bytes, the low byte first (R56, R94). -/
def addrField (lo hi : Byte) : Addr := hi ++ lo

/-- One row of the opcode map: `value` and `mask` apply to byte 0, `size` is the length in bytes, and `build`
assembles the operands from bytes 0, 1 and 2 (R96, R97). -/
structure OpRow where
  mnemonic : String
  value : Byte
  mask : Byte
  size : Nat
  build : Byte → Byte → Byte → Instr

/-- A row whose byte 0 is wholly fixed and which has no operand: format IMPLIED (R82). -/
def OpRow.implied (m : String) (v : Byte) (i : Instr) : OpRow := ⟨m, v, 0xFF, 1, fun _ _ _ => i⟩

/-- A one-byte row with the register field: format REG (R83). -/
def OpRow.reg (m : String) (v : Byte) (mk : Reg → Instr) : OpRow :=
  ⟨m, v, 0xF1, 1, fun b0 _ _ => mk (regField b0)⟩

/-- A one-byte row with a 4-bit immediate: format IMM4 (R84). -/
def OpRow.imm4 (m : String) (v : Byte) (mk : Nibble → Instr) : OpRow :=
  ⟨m, v, 0xF0, 1, fun b0 _ _ => mk (nibbleField b0)⟩

/-- A two-byte row whose second byte is a port number: format PORT (R86). -/
def OpRow.port (m : String) (v : Byte) (mk : Byte → Instr) : OpRow := ⟨m, v, 0xFF, 2, fun _ b1 _ => mk b1⟩

/-- A three-byte row with an address and a fixed byte 0: format ADDR (R87). -/
def OpRow.addr (m : String) (v : Byte) (mk : Addr → Instr) : OpRow :=
  ⟨m, v, 0xFF, 3, fun _ b1 b2 => mk (addrField b1 b2)⟩

/-- A three-byte row with a register and an address: format REG_ADDR (R89). -/
def OpRow.regAddr (m : String) (v : Byte) (mk : Reg → Addr → Instr) : OpRow :=
  ⟨m, v, 0xF1, 3, fun b0 b1 b2 => mk (regField b0) (addrField b1 b2)⟩

/-- The rows NOP to STO of the main table (R97; FIM has the format REG_IMM8 of R85, JCN the format COND_ADDR of
R88). -/
def opTableMainA : List OpRow := [
  .implied "NOP" 0x00 .nop,
  ⟨"JCN", 0x10, 0xF0, 3, fun b0 b1 b2 => .jcn (nibbleField b0) (addrField b1 b2)⟩,
  ⟨"FIM", 0x20, 0xF1, 2, fun b0 b1 _ => .fim (regField b0) b1⟩,
  .reg "ZER" 0x21 .zer,
  .reg "FIN" 0x30 .fin,
  .regAddr "FTC" 0x31 .ftc,
  .addr "JUN" 0x40 .jun,
  .addr "JMS" 0x50 .jms,
  .reg "INC" 0x60 .inc,
  .reg "INO" 0x61 .ino,
  .regAddr "ISZ" 0x70 .isz,
  .regAddr "STO" 0x71 .sto]

/-- The rows ADD to LDM of the main table (R97). -/
def opTableMainB : List OpRow := [
  .reg "ADD" 0x80 .add,
  .reg "XOR" 0x81 .xor,
  .reg "SUB" 0x90 .sub,
  .reg "STI" 0x91 .sti,
  .reg "LD" 0xA0 .ld,
  .reg "XCH" 0xB0 .xch,
  .imm4 "BBL" 0xC0 .bbl,
  .imm4 "LDM" 0xD0 .ldm]

/-- The rows of the input/output table (R97). -/
def opTableIo : List OpRow := [
  .port "WMP" 0xE1 .wmp,
  .port "RDR" 0xEA .rdr,
  .implied "KBI" 0xFC .kbi,
  .implied "ASC" 0xFD .asc]

/-- The rows of the accumulator group (R97). -/
def opTableAcc : List OpRow := [
  .implied "CLB" 0xF0 .clb,
  .implied "CLC" 0xF1 .clc,
  .implied "IAC" 0xF2 .iac,
  .implied "CMC" 0xF3 .cmc,
  .implied "CMA" 0xF4 .cma,
  .implied "RAL" 0xF5 .ral,
  .implied "RAR" 0xF6 .rar,
  .implied "TCC" 0xF7 .tcc,
  .implied "DAC" 0xF8 .dac,
  .implied "STC" 0xFA .stc,
  .implied "DAA" 0xFB .daa,
  .implied "HLT" 0xFF .hlt]

/-- The complete opcode map (R97). -/
def opTable : List OpRow := opTableMainA ++ (opTableMainB ++ (opTableIo ++ opTableAcc))

/-- Whether byte 0 is one of a row's values (R96). -/
def OpRow.matches (row : OpRow) (b : Byte) : Bool := b &&& row.mask == row.value

/-- The row of an opcode byte, or none where the byte is unassigned (R96, R98). -/
def findRow (b : Byte) : Option OpRow := opTable.find? (·.matches b)

/-- The length in bytes, a function of byte 0 alone; an unassigned byte has none (R80, R81). -/
def lengthOf (b : Byte) : Option Nat := (findRow b).map (·.size)

/-- The instruction in three consecutive bytes, of which it may use fewer; none where byte 0 is unassigned (R96). -/
def decodeWindow (b0 b1 b2 : Byte) : Option Instr := (findRow b0).map (·.build b0 b1 b2)

/-- Why a list of bytes holds no instruction at its front. -/
inductive DecodeError where
  /-- The list is empty. -/
  | noBytes
  /-- Byte 0 is one of the 77 unassigned values (R98). -/
  | unassigned (b : Byte)
  /-- Byte 0 needs more operand bytes than the list has (R80). -/
  | truncated (b : Byte)
  deriving DecidableEq, Repr

/-- The instruction at the front of a list of bytes and the bytes after it, or the reason there is none. -/
def decode : List Byte → Except DecodeError (Instr × List Byte)
  | [] => .error .noBytes
  | b0 :: rest =>
    match findRow b0 with
    | none => .error (.unassigned b0)
    | some row =>
      if rest.length + 1 < row.size then .error (.truncated b0)
      else .ok (row.build b0 (rest.getD 0 0) (rest.getD 1 0), rest.drop (row.size - 1))

/-- The bytes of an instruction whose bits are numbered as spec/opcode_table.json numbers them: the first byte is bits
7 to 0, the second bits 15 to 8, the third bits 23 to 16; the bits from nbits up are zero. -/
def tableBytes (nbits w : Nat) : List Byte :=
  let v := w % 2 ^ nbits
  [BitVec.ofNat 8 v, BitVec.ofNat 8 (v / 256), BitVec.ofNat 8 (v / 65536)]

/-- What the decoder reads from an instruction given as one number, with the bits numbered as the table numbers
them. -/
def decodeTableWord (nbits w : Nat) : Option Instr :=
  match decode (tableBytes nbits w) with
  | .ok (i, _) => some i
  | .error _ => none

/-- The opcode byte of a row with a register field: RRR stands one place up from bit 0 (R83). -/
def regByte (base : Byte) (r : Reg) : Byte := base + BitVec.ofNat 8 (2 * r.index)

/-- The opcode byte of a row with a 4-bit field in bits 3 to 0 (R84, R88). -/
def nibbleByte (base : Byte) (n : Nibble) : Byte := base + n.setWidth 8

/-- The two bytes of an address operand, bits 7 to 0 first (R56). -/
def addrBytes (a : Addr) : List Byte := [a.extractLsb' 0 8, a.extractLsb' 8 8]

/-- The bytes of an instruction (R82 to R89, R97). -/
def encode : Instr → List Byte
  | .nop => [0x00]
  | .jcn c a => nibbleByte 0x10 c :: addrBytes a
  | .fim r d => [regByte 0x20 r, d]
  | .zer r => [regByte 0x21 r]
  | .fin r => [regByte 0x30 r]
  | .ftc r a => regByte 0x31 r :: addrBytes a
  | .jun a => 0x40 :: addrBytes a
  | .jms a => 0x50 :: addrBytes a
  | .inc r => [regByte 0x60 r]
  | .ino r => [regByte 0x61 r]
  | .isz r a => regByte 0x70 r :: addrBytes a
  | .sto r a => regByte 0x71 r :: addrBytes a
  | .add r => [regByte 0x80 r]
  | .xor r => [regByte 0x81 r]
  | .sub r => [regByte 0x90 r]
  | .sti r => [regByte 0x91 r]
  | .ld r => [regByte 0xA0 r]
  | .xch r => [regByte 0xB0 r]
  | .bbl d => [nibbleByte 0xC0 d]
  | .ldm d => [nibbleByte 0xD0 d]
  | .wmp p => [0xE1, p]
  | .rdr p => [0xEA, p]
  | .kbi => [0xFC]
  | .asc => [0xFD]
  | .clb => [0xF0]
  | .clc => [0xF1]
  | .iac => [0xF2]
  | .cmc => [0xF3]
  | .cma => [0xF4]
  | .ral => [0xF5]
  | .rar => [0xF6]
  | .tcc => [0xF7]
  | .dac => [0xF8]
  | .stc => [0xFA]
  | .daa => [0xFB]
  | .hlt => [0xFF]

/-- The length of an instruction in bytes: the Bytes column of the source's tables (R207). -/
def Instr.size : Instr → Nat
  | .jcn _ _ | .ftc _ _ | .jun _ | .jms _ | .isz _ _ | .sto _ _ => 3
  | .fim _ _ | .wmp _ | .rdr _ => 2
  | .nop | .zer _ | .fin _ | .inc _ | .ino _ | .add _ | .xor _ | .sub _ | .sti _ | .ld _ | .xch _ => 1
  | .bbl _ | .ldm _ | .kbi | .asc | .clb | .clc | .iac | .cmc | .cma | .ral | .rar => 1
  | .tcc | .dac | .stc | .daa | .hlt => 1

end Sys2Proof
end

