-- ==== Sys2Proof/Config.lean ====
section
/-! DEFINITION. What the machine is instantiated with: the capacity of the call stack, and the free values, each an
opaque constant without a body, so that no proof can learn or choose a value of it (spec rules R6, R37, R40). -/

namespace Sys2Proof

/-- `STACK_DEPTH`: the number of return addresses the call stack holds, 256 bytes by 2 bytes each (R31; the spec's own
decision D4, assumption 5). -/
def Config.stackDepth : Nat := 128

/-- The test signal at the n-th draw; "true" is the value 1 (R37 (a); assumption 7). -/
opaque Config.testSignal : Nat → Bool

/-- The byte the keyboard delivers at the n-th draw, any of the 256 values (R37 (b), R152; assumption 8). -/
opaque Config.keyboard : Nat → Byte

/-- Whether the environment offers a key at the n-th draw; it matters only to a KBI that waits (R152; assumption 8). -/
opaque Config.keyOffered : Nat → Bool

/-- The byte that port p delivers at the n-th draw, unrelated to anything written to it (R37 (c), R38, R151;
assumption 9). -/
opaque Config.portIn : Byte → Nat → Byte

/-- `PORTS_PRESENT`: whether port p has a device (R6, R40, R53). It is informational: absent ports behave the same, so no
meaning reads it (the spec's own decision D15; assumption 9). -/
opaque Config.portsPresent : Byte → Bool

/-- `DAA_FN`: a total function of the accumulator and the carry, and of nothing else (R170; assumption 10). -/
opaque Config.daaFn : Byte → Bool → Byte × Bool

end Sys2Proof
end

