-- ==== Sys2Proof/Machine/State.lean ====
section
/-! DEFINITION. The state of the machine: the complete tuple of spec rule R40, the host pins of R39, and two fields
of the model's own (the parameter KBI_BLOCKS and the draw counter). State is plain data. -/

namespace Sys2Proof.Machine

/-- The three model faults of R181, each with the information that rule records. All are safe: the source does not
say what the hardware does there, and the model says nothing about what follows (R182). -/
inductive Fault where
  /-- Raised by instruction fetch when byte 0, here `b`, is one of the 77 unassigned values (R98, R99). Safe. -/
  | illegalOpcode (b : Byte) (pc : Addr)
  /-- Raised by JMS at `pc` when the call stack already holds `STACK_DEPTH` entries (R32). Safe. -/
  | stackOverflow (pc : Addr)
  /-- Raised by BBL at `pc` when the call stack is empty (R33). Safe. -/
  | stackUnderflow (pc : Addr)
  deriving DecidableEq, Repr

/-- Why the model gives an instruction no meaning. -/
inductive Refusal where
  /-- The arm of an instruction that is not modelled; no arm of this model answers with it. Safe. -/
  | notModelled (mnemonic : String)
  deriving DecidableEq, Repr


/-- The general registers R0 to R7, 8 bits each (R20). -/
structure RegFile where
  r0 : Byte
  r1 : Byte
  r2 : Byte
  r3 : Byte
  r4 : Byte
  r5 : Byte
  r6 : Byte
  r7 : Byte
  deriving DecidableEq, Repr

/-- RAM as data: the cells that hold something else than what an unlisted address reads as, by rising address
(R50; assumption 1). -/
abbrev Memory := List Host.Cell

/-- An output event (R38). -/
inductive OutEvent where
  /-- WMP sent the byte v to port p. -/
  | port (p v : Byte)
  /-- ASC sent the byte v to the terminal. -/
  | vdu (v : Byte)
  deriving DecidableEq, Repr

/-- The state of the machine. -/
structure State where
  /-- R0 to R7 (R20). -/
  regs : RegFile
  /-- The accumulator ACC (R24). -/
  acc : Byte
  /-- The carry flag C (R25). -/
  carry : Bool
  /-- The program counter PC (R28). -/
  pc : Addr
  /-- The internal call stack STACK, the top first (R31). -/
  stack : List Addr
  /-- The 65536 bytes of RAM, MEM (R50). -/
  mem : Memory
  /-- HALTED (R36). -/
  halted : Bool
  /-- The output history OUT, the oldest event first (R38). -/
  out : List OutEvent
  /-- The fault mark, absent or one of the faults of R181 (R40, R182; assumption 12). -/
  faultMark : Option Fault
  /-- The level of the test pin, which the host drives (R39). -/
  testPin : Bool
  /-- The level of the load pin, which the host drives (R39). -/
  loadPin : Bool
  /-- The PC value the host has uploaded since it last raised the test pin, the last one where there were
  several (R200; assumptions 13 and 32). -/
  uploadedPc : Option Addr
  /-- The parameter KBI_BLOCKS: whether KBI waits for a key (R152). The model's own field; no step writes it
  (assumption 8). -/
  kbiBlocks : Bool
  /-- How many values have been drawn from the environment. The model's own field (R37; assumption 7). -/
  draws : Nat
  deriving DecidableEq, Repr

/-- What an instruction or a step answers. -/
abbrev Result := Host.Outcome State Fault Refusal

/-- The state at the start of execution (R41, R202): HALTED is 0, the call stack is treated as empty, OUT is empty and
the fault mark is absent, as the spec says. The registers, ACC, C and PC are values the model names (assumptions 2
and 3), the host has released the test pin with the load pin low (assumption 4), and memory lists nothing
(assumption 1). -/
def State.reset : State where
  regs := ⟨0, 0, 0, 0, 0, 0, 0, 0⟩
  acc := 0
  carry := false
  pc := 0
  stack := []
  mem := []
  halted := false
  out := []
  faultMark := none
  testPin := false
  loadPin := false
  uploadedPc := none
  kbiBlocks := false
  draws := 0

end Sys2Proof.Machine
end

