-- ==== Sys2Proof/Machine/Ops.lean ====
section
/-! DEFINITION. The named operations over registers, flag, program counter, memory, call stack, environment and output
that every meaning is written with (spec rules R10 to R12). The RCx8 has no trap entry and no trap return (R180, R185,
R186); `raise` is the one way an instruction stops. -/

namespace Sys2Proof.Machine

/-- `raise`: the model stops with a named fault and makes no state change (R12, R182). -/
def raise (r : Fault) : Result := .fault r

/-! ### Registers, accumulator, carry, program counter -/

/-- The value of a general register (R20). -/
def RegFile.get (f : RegFile) : Reg → Byte
  | .r0 => f.r0
  | .r1 => f.r1
  | .r2 => f.r2
  | .r3 => f.r3
  | .r4 => f.r4
  | .r5 => f.r5
  | .r6 => f.r6
  | .r7 => f.r7

/-- The register file with one register written (R20). -/
def RegFile.set (f : RegFile) (r : Reg) (v : Byte) : RegFile :=
  match r with
  | .r0 => { f with r0 := v }
  | .r1 => { f with r1 := v }
  | .r2 => { f with r2 := v }
  | .r3 => { f with r3 := v }
  | .r4 => { f with r4 := v }
  | .r5 => { f with r5 := v }
  | .r6 => { f with r6 := v }
  | .r7 => { f with r7 := v }

/-- `x[r]` (R10). -/
def State.reg (s : State) (r : Reg) : Byte := s.regs.get r

/-- `x[r] <- v` (R10). -/
def State.setReg (s : State) (r : Reg) (v : Byte) : State := { s with regs := s.regs.set r v }

/-- `ACC <- v` (R10). -/
def State.setAcc (s : State) (v : Byte) : State := { s with acc := v }

/-- `C <- b` (R10). -/
def State.setCarry (s : State) (b : Bool) : State := { s with carry := b }

/-- `PC <- a` (R10). -/
def State.setPc (s : State) (a : Addr) : State := { s with pc := a }

/-- The address n bytes after PC, modulo 65536 (R29, R30). -/
def State.pcPlus (s : State) (n : Nat) : Addr := s.pc + BitVec.ofNat 16 n

/-- `PC <- (PC + n) mod 65536`, the end of an instruction of length n that transfers no control (R29, R110). -/
def State.advance (s : State) (n : Nat) : State := s.setPc (s.pcPlus n)

/-- `HALTED <- 1` (R36). -/
def State.halt (s : State) : State := { s with halted := true }

/-! ### Memory -/

/-- What an address that no cell lists reads as (assumption 1). -/
def unlistedByte : Byte := 0

/-- The byte at an address. -/
def Memory.read (a : Nat) : Memory → Byte
  | [] => unlistedByte
  | (b, v) :: m => if a = b then v else Memory.read a m

/-- The memory without any cell at an address. -/
def Memory.erase (a : Nat) (m : Memory) : Memory := m.filter fun c => c.1 != a

/-- The memory with a cell put before the first one of a greater address. -/
def Memory.insert (a : Nat) (v : Byte) : Memory → Memory
  | [] => [(a, v)]
  | (b, w) :: m => if a < b then (a, v) :: (b, w) :: m else (b, w) :: Memory.insert a v m

/-- The memory with one byte written, in canonical form if it was so before. -/
def Memory.write (a : Nat) (v : Byte) (m : Memory) : Memory :=
  if v = unlistedByte then m.erase a else (m.erase a).insert a v

/-- The canonical form: addresses strictly rising and below 65536, and no cell that an unlisted address would read
as. -/
abbrev Memory.wf (m : Memory) : Prop :=
  m.Pairwise (fun c d => c.1 < d.1) ∧ ∀ c ∈ m, c.2 ≠ unlistedByte ∧ c.1 < 65536

/-- `MemRead(a, 1)`: every address is readable RAM and a read has no side effect (R51). -/
def State.readByte (s : State) (a : Addr) : Byte := s.mem.read a.toNat

/-- `MemWrite(a, 1, v)`: every address is writable RAM and no other byte changes (R51). -/
def State.writeByte (s : State) (a : Addr) (v : Byte) : State := { s with mem := s.mem.write a.toNat v }

/-- Consecutive bytes written from an address on, wrapping at the top of RAM (R30). -/
def State.placeBytes (s : State) (a : Addr) : List Byte → State
  | [] => s
  | v :: vs => (s.writeByte a v).placeBytes (a + 1) vs

/-! ### Fetch -/

/-- `Fetch(k)`: the k-th byte of the current instruction (R11, R30). -/
def State.fetchByte (s : State) (k : Nat) : Byte := s.readByte (s.pcPlus k)

/-- The instruction at PC, or none where its first byte is unassigned (R96; assumption 29). -/
def State.fetched (s : State) : Option Instr := decodeWindow (s.fetchByte 0) (s.fetchByte 1) (s.fetchByte 2)

/-- What executing an unassigned byte 0 does (R99, R181 F1). -/
def State.illegal (s : State) : Result := raise (.illegalOpcode (s.fetchByte 0) s.pc)

/-- Whether the processor executes instructions: the test pin is low and it is not halted (R36, R39). -/
def State.executes (s : State) : Bool := !s.testPin && !s.halted

/-! ### The call stack -/

/-- `Push(v)`, with the fault of R32 where the stack is full (R31, R32; assumption 6). -/
def State.push (s : State) (v : Addr) : Except Fault State :=
  if s.stack.length < Config.stackDepth then .ok { s with stack := v :: s.stack }
  else .error (.stackOverflow s.pc)

/-- `Pop()`, the popped value and the state after it, with the fault of R33 where the stack is empty. -/
def State.pop (s : State) : Except Fault (Addr × State) :=
  match s.stack with
  | [] => .error (.stackUnderflow s.pc)
  | v :: rest => .ok (v, { s with stack := rest })

/-! ### The environment -/

/-- An output event appended to OUT (R38). -/
def State.emit (s : State) (e : OutEvent) : State := { s with out := s.out ++ [e] }

/-- The state after one draw from the environment (R37; assumption 7). -/
def State.drawn (s : State) : State := { s with draws := s.draws + 1 }

/-- `TestSignal()`, the value of the draw made now (R11, R37). -/
def State.testDraw (s : State) : Bool := Config.testSignal s.draws

/-- `KbdRead()`, the value of the draw made now (R11, R37). -/
def State.keyDraw (s : State) : Byte := Config.keyboard s.draws

/-- `PortRead(p)`, the value of the draw made now (R11, R37). -/
def State.portDraw (s : State) (p : Byte) : Byte := Config.portIn p s.draws

/-- Whether a KBI executed now must wait: KBI_BLOCKS is true and no key is offered (R152; assumption 8). -/
def State.keyAwaited (s : State) : Bool := s.kbiBlocks && !Config.keyOffered s.draws

end Sys2Proof.Machine
end

