-- ==== Sys2Proof/Machine/Accumulator.lean ====
section
/-! DEFINITION. The meanings of the accumulator group: CLB, CLC, IAC, CMC, CMA, RAL, RAR, TCC, DAC, STC, DAA and HLT
(spec rules R160 to R171). -/

namespace Sys2Proof.Machine

/-- Accumulator and carry written together, and PC moved past a one-byte instruction. -/
def State.accStep (s : State) (v : Byte) (c : Bool) : Result := .next (((s.setAcc v).setCarry c).advance 1)

/-- CLB (R160). -/
def execClb (s : State) : Result := s.accStep 0 false

/-- CLC (R161). -/
def execClc (s : State) : Result := .next ((s.setCarry false).advance 1)

/-- IAC (R162). -/
def execIac (s : State) : Result := s.accStep (sumByte s.acc 1 false) (sumCarry s.acc 1 false)

/-- CMC (R163). -/
def execCmc (s : State) : Result := .next ((s.setCarry (!s.carry)).advance 1)

/-- CMA (R164). -/
def execCma (s : State) : Result := .next ((s.setAcc (~~~s.acc)).advance 1)

/-- RAL (R165). -/
def execRal (s : State) : Result := s.accStep (rollLeft s.acc s.carry) (rollLeftCarry s.acc)

/-- RAR (R166). -/
def execRar (s : State) : Result := s.accStep (rollRight s.acc s.carry) (rollRightCarry s.acc)

/-- TCC (R167; the upper seven bits are zero by the spec's own decision D9, assumption 19). -/
def execTcc (s : State) : Result := s.accStep (carryByte s.carry) false

/-- DAC (R168). -/
def execDac (s : State) : Result := s.accStep (diffByte s.acc 1 false) (diffBorrow s.acc 1 false)

/-- STC (R169). -/
def execStc (s : State) : Result := .next ((s.setCarry true).advance 1)

/-- DAA: what it computes is the open parameter DAA_FN (R170; assumption 10). -/
def execDaa (s : State) : Result :=
  s.accStep (Config.daaFn s.acc s.carry).1 (Config.daaFn s.acc s.carry).2

/-- HLT (R171; the advance of PC and the unwritten carry are the spec's own decision D11, assumption 21). -/
def execHlt (s : State) : Result := .next (s.halt.advance 1)

end Sys2Proof.Machine
end

