-- ==== Sys2Proof/Machine/Arith.lean ====
section
/-! DEFINITION. The meanings of the register arithmetic INC, INO, ADD, XOR and SUB (spec rules R119, R120, R123 to
R125, R131). The destination is the register, never the accumulator (conflict C1 of the spec, assumption 20). -/

namespace Sys2Proof.Machine

/-- The register r receives the sum of two bytes and a carry in, C the carry out. -/
def State.addInto (s : State) (r : Reg) (a b : Byte) (c : Bool) : State :=
  (s.setReg r (sumByte a b c)).setCarry (sumCarry a b c)

/-- INC (R119). -/
def execInc (r : Reg) (s : State) : Result := .next ((s.addInto r (s.reg r) 1 false).advance 1)

/-- INO (R120). -/
def execIno (r : Reg) (s : State) : Result := .next ((s.addInto r (s.reg r) 0 s.carry).advance 1)

/-- ADD (R123). -/
def execAdd (r : Reg) (s : State) : Result := .next ((s.addInto r s.acc (s.reg r) s.carry).advance 1)

/-- XOR (R124). -/
def execXor (r : Reg) (s : State) : Result := .next ((s.setReg r (s.acc ^^^ s.reg r)).advance 1)

/-- SUB: C is a true borrow flag (R125). -/
def execSub (r : Reg) (s : State) : Result :=
  let v := diffByte s.acc (s.reg r) s.carry
  let b := diffBorrow s.acc (s.reg r) s.carry
  .next (((s.setReg r v).setCarry b).advance 1)

end Sys2Proof.Machine
end

