-- ==== Sys2Proof/Machine/Operands.lean ====
section
/-! DEFINITION. The operand forms that need more than a field of the instruction: the pointer R1.R0, the
zero-extended 4-bit immediate, and the condition of JCN (spec rules R52, R92, R95, R112). -/

namespace Sys2Proof.Machine

/-- The register-indirect address `x[1] :: x[0]`, R1 the most significant byte (R23, R52). -/
def State.pointer (s : State) : Addr := s.reg .r1 ++ s.reg .r0

/-- `zext_8(d4)`: a 4-bit immediate with zeros above it (R92). -/
def immediate (d : Nibble) : Byte := d.setWidth 8

/-- C1, which inverts the condition (R95). -/
def condInverts (c : Nibble) : Bool := c.getLsbD 3

/-- C2, which selects the test that the accumulator is zero (R95). -/
def condZero (c : Nibble) : Bool := c.getLsbD 2

/-- C3, which selects the test that carry is 1 (R95). -/
def condCarry (c : Nibble) : Bool := c.getLsbD 1

/-- C4, which selects the test signal (R95). -/
def condTest (c : Nibble) : Bool := c.getLsbD 0

/-- Whether JCN jumps, given the test signal: the selected tests are combined by OR and C1 inverts the result (R112;
the spec's own decision D6, assumption 17). -/
def condHolds (c : Nibble) (acc : Byte) (carry test : Bool) : Bool :=
  xor (condInverts c) ((condZero c && acc == 0) || (condCarry c && carry) || (condTest c && test))

end Sys2Proof.Machine
end

