-- ==== Sys2Proof/Machine/Control.lean ====
section
/-! DEFINITION. The meanings of NOP and of the instructions that can set PC otherwise than to the next instruction:
JCN, JUN, JMS, ISZ and BBL (spec rules R111, R112, R117, R118, R121, R129, R132). -/

namespace Sys2Proof.Machine

/-- NOP (R111). -/
def execNop (s : State) : Result := .next (s.advance 1)

/-- JCN (R112). The test signal is drawn only when C4 is 1. -/
def execJcn (c : Nibble) (addr : Addr) (s : State) : Result :=
  let target := if condHolds c s.acc s.carry s.testDraw then addr else s.pcPlus 3
  .next ((if condTest c then s.drawn else s).setPc target)

/-- JUN (R117). -/
def execJun (addr : Addr) (s : State) : Result := .next (s.setPc addr)

/-- JMS: the address of the next instruction is pushed (R118; the spec's own decision D3, assumption 16). -/
def execJms (addr : Addr) (s : State) : Result :=
  match s.push (s.pcPlus 3) with
  | .ok t => .next (t.setPc addr)
  | .error r => raise r

/-- ISZ: the test is on the incremented register, and C is not written (R121). -/
def execIsz (r : Reg) (addr : Addr) (s : State) : Result :=
  let v := sumByte (s.reg r) 1 false
  .next ((s.setReg r v).setPc (if v = 0 then s.pcPlus 3 else addr))

/-- BBL: PC from the call stack and 0000DDDD in the accumulator (R129). -/
def execBbl (d : Nibble) (s : State) : Result :=
  match s.pop with
  | .ok (a, t) => .next ((t.setPc a).setAcc (immediate d))
  | .error r => raise r

end Sys2Proof.Machine
end

