-- ==== Sys2Proof/Machine/Data.lean ====
section
/-! DEFINITION. The meanings of the instructions that move data between immediates, registers, the accumulator and
RAM: FIM, ZER, FIN, FTC, STO, STI, LD, XCH and LDM (spec rules R113 to R116, R122, R126 to R128, R130, R133). -/

namespace Sys2Proof.Machine

/-- FIM (R113). -/
def execFim (r : Reg) (d : Byte) (s : State) : Result := .next ((s.setReg r d).advance 2)

/-- ZER (R114). -/
def execZer (r : Reg) (s : State) : Result := .next ((s.setReg r 0).advance 1)

/-- FIN: the address is formed from R1 and R0 before the register is written (R115). -/
def execFin (r : Reg) (s : State) : Result := .next ((s.setReg r (s.readByte s.pointer)).advance 1)

/-- FTC (R116). -/
def execFtc (r : Reg) (addr : Addr) (s : State) : Result := .next ((s.setReg r (s.readByte addr)).advance 3)

/-- STO (R122). -/
def execSto (r : Reg) (addr : Addr) (s : State) : Result := .next ((s.writeByte addr (s.reg r)).advance 3)

/-- STI (R126). -/
def execSti (r : Reg) (s : State) : Result := .next ((s.writeByte s.pointer (s.reg r)).advance 1)

/-- LD (R127). -/
def execLd (r : Reg) (s : State) : Result := .next ((s.setAcc (s.reg r)).advance 1)

/-- XCH: both values are read before either is written (R128). -/
def execXch (r : Reg) (s : State) : Result := .next (((s.setReg r s.acc).setAcc (s.reg r)).advance 1)

/-- LDM: the upper four bits become zero (R130; the spec's own decision D9, assumption 19). -/
def execLdm (d : Nibble) (s : State) : Result := .next ((s.setAcc (immediate d)).advance 1)

end Sys2Proof.Machine
end

