-- ==== Sys2Proof/Machine/InOut.lean ====
section
/-! DEFINITION. The meanings of the input/output instructions WMP, RDR, KBI and ASC (spec rules R150 to R154).
Outputs are events appended to OUT (R38), inputs are draws from the environment (R37). -/

namespace Sys2Proof.Machine

/-- WMP (R150). The event is the same whether or not the port is in PORTS_PRESENT (R53). -/
def execWmp (p : Byte) (s : State) : Result := .next ((s.emit (.port p s.acc)).advance 2)

/-- RDR (R151). The value is drawn alike whether or not the port is in PORTS_PRESENT (R53). -/
def execRdr (p : Byte) (s : State) : Result := .next ((s.drawn.setAcc (s.portDraw p)).advance 2)

/-- KBI (R152). Where it must wait for a key it stays where it is, and only the draw counter moves (assumption 8). -/
def execKbi (s : State) : Result :=
  if s.keyAwaited then .next s.drawn else .next ((s.drawn.setAcc s.keyDraw).advance 1)

/-- ASC: the accumulator as it stands, all eight bits (R153). -/
def execAsc (s : State) : Result := .next ((s.emit (.vdu s.acc)).advance 1)

end Sys2Proof.Machine
end

