-- ==== Sys2Proof/Machine/Dispatch.lean ====
section
/-! DEFINITION. One arm for each instruction, each one direct call of its meaning. -/

namespace Sys2Proof.Machine

def exec (i : Instr) (s : State) : Host.Outcome State Fault Refusal :=
  match i with
  | .nop => Sys2Proof.Machine.execNop s
  | .jcn c addr => Sys2Proof.Machine.execJcn c addr s
  | .fim r d => Sys2Proof.Machine.execFim r d s
  | .zer r => Sys2Proof.Machine.execZer r s
  | .fin r => Sys2Proof.Machine.execFin r s
  | .ftc r addr => Sys2Proof.Machine.execFtc r addr s
  | .jun addr => Sys2Proof.Machine.execJun addr s
  | .jms addr => Sys2Proof.Machine.execJms addr s
  | .inc r => Sys2Proof.Machine.execInc r s
  | .ino r => Sys2Proof.Machine.execIno r s
  | .isz r addr => Sys2Proof.Machine.execIsz r addr s
  | .sto r addr => Sys2Proof.Machine.execSto r addr s
  | .add r => Sys2Proof.Machine.execAdd r s
  | .xor r => Sys2Proof.Machine.execXor r s
  | .sub r => Sys2Proof.Machine.execSub r s
  | .sti r => Sys2Proof.Machine.execSti r s
  | .ld r => Sys2Proof.Machine.execLd r s
  | .xch r => Sys2Proof.Machine.execXch r s
  | .bbl d => Sys2Proof.Machine.execBbl d s
  | .ldm d => Sys2Proof.Machine.execLdm d s
  | .wmp p => Sys2Proof.Machine.execWmp p s
  | .rdr p => Sys2Proof.Machine.execRdr p s
  | .kbi => Sys2Proof.Machine.execKbi s
  | .asc => Sys2Proof.Machine.execAsc s
  | .clb => Sys2Proof.Machine.execClb s
  | .clc => Sys2Proof.Machine.execClc s
  | .iac => Sys2Proof.Machine.execIac s
  | .cmc => Sys2Proof.Machine.execCmc s
  | .cma => Sys2Proof.Machine.execCma s
  | .ral => Sys2Proof.Machine.execRal s
  | .rar => Sys2Proof.Machine.execRar s
  | .tcc => Sys2Proof.Machine.execTcc s
  | .dac => Sys2Proof.Machine.execDac s
  | .stc => Sys2Proof.Machine.execStc s
  | .daa => Sys2Proof.Machine.execDaa s
  | .hlt => Sys2Proof.Machine.execHlt s

end Sys2Proof.Machine
end

