-- ==== Sys2Proof/Machine/Step.lean ====
section
/-! DEFINITION. One step of the machine, and the placing of an instruction where the next step fetches it. -/

namespace Sys2Proof.Machine

/-- One step. A faulted state has no further step (R182). While the test pin is high or HALTED is 1 the processor
executes nothing and nothing changes (R36, R39; assumption 11). Otherwise the instruction at PC is executed, or, where
byte 0 is unassigned, the fault of R99 is raised (R96, R184). -/
def step (s : State) : Host.Outcome State Fault Refusal :=
  match s.faultMark with
  | some r => raise r
  | none =>
    if s.executes then
      match s.fetched with
      | some i => exec i s
      | none => s.illegal
    else .next s

/-- The state with an instruction, its bits numbered as spec/opcode_table.json numbers them, placed at PC, and with
what a fetch needs besides: no fault mark, the test pin low, HALTED 0 (assumption 3). -/
def State.withFetchWord (s : State) (nbits w : Nat) : State :=
  { s.placeBytes s.pc (tableBytes nbits w) with faultMark := none, testPin := false, halted := false }

end Sys2Proof.Machine
end

