-- ==== Sys2Proof/Machine/Bootstrap.lean ====
section
/-! DEFINITION. What the host can do to the machine between instructions: the test pin, the load pin, the two uploads
and the restart (spec rules R39, R66, R187, R200 to R203; assumption 13). -/

namespace Sys2Proof.Machine

/-- The values that R0 to R7, ACC and C happen to have when execution starts. The spec leaves every one of them
unspecified at each start (R41, R203), so a claim about a launch quantifies over this structure. -/
structure StartValues where
  regs : RegFile
  acc : Byte
  carry : Bool
  deriving DecidableEq, Repr

/-- One move of the host (R200). -/
inductive HostMove where
  /-- The test pin is taken high: the processor stops executing (R187, R200 (1)). -/
  | raiseTestPin
  /-- The load pin is driven to a level. -/
  | setLoadPin (level : Bool)
  /-- One byte is uploaded into RAM (R200 (2)). -/
  | uploadByte (a : Addr) (v : Byte)
  /-- A program counter value is uploaded (R200 (3)). -/
  | uploadPc (a : Addr)
  /-- The test pin is released: a new run begins (R200 (4), R203). -/
  | releaseTestPin (start : StartValues)
  deriving DecidableEq, Repr

/-- The state in which a run begins at `entry`: memory as it stands, HALTED 0, the call stack empty, OUT empty, no
fault mark, and the registers, ACC and C at whatever values they have then (R41, R202, R203). -/
def State.startRun (s : State) (entry : Addr) (start : StartValues) : State :=
  { s with
    regs := start.regs
    acc := start.acc
    carry := start.carry
    pc := entry
    stack := []
    halted := false
    out := []
    faultMark := none
    testPin := false
    uploadedPc := none }

/-- The state after a move of the host, or none where the spec gives the host no such move: an upload while the test
pin is low or the load pin at the other level, or a release without an uploaded PC (R66, R200, R201).
DESIGN CHOICE (assumption 32), where the spec speaks of one upload of each kind and the source gives no more: a second
PC upload before the release replaces the first; the memory upload and the PC upload may come in either order and any
number of times; a move of the load pin keeps what has been uploaded. -/
def State.hostMove (s : State) : HostMove → Option State
  | .raiseTestPin => if s.testPin then none else some { s with testPin := true, uploadedPc := none }
  | .setLoadPin level => if s.testPin then some { s with loadPin := level } else none
  | .uploadByte a v => if s.testPin && s.loadPin then some (s.writeByte a v) else none
  | .uploadPc a => if s.testPin && !s.loadPin then some { s with uploadedPc := some a } else none
  | .releaseTestPin start =>
    if s.testPin then s.uploadedPc.map fun entry => s.startRun entry start else none

/-- The moves of a list, one after the other; none where one of them is not the host's. -/
def State.hostMoves (s : State) : List HostMove → Option State
  | [] => some s
  | m :: ms => (s.hostMove m).bind fun t => t.hostMoves ms

/-- The bootstrap sequence of R200: test pin high, load pin high, the memory upload, load pin low, the PC upload,
test pin released. -/
def bootstrap (upload : List (Addr × Byte)) (entry : Addr) (start : StartValues) : List HostMove :=
  [.raiseTestPin, .setLoadPin true] ++ (upload.map fun c => .uploadByte c.1 c.2) ++
    [.setLoadPin false, .uploadPc entry, .releaseTestPin start]

/-- RAM with the host's upload laid over it, byte after byte. -/
def State.overlay (s : State) : List (Addr × Byte) → State
  | [] => s
  | c :: cs => (s.writeByte c.1 c.2).overlay cs

/-- The launch that R200 abstracts the bootstrap to: the upload over what the previous run left in RAM, and a run that
begins at `entry` (R200, R203). -/
def State.launch (s : State) (upload : List (Addr × Byte)) (entry : Addr) (start : StartValues) : State :=
  { (s.overlay upload).startRun entry start with loadPin := false }

end Sys2Proof.Machine
end

