-- ==== Sys2Proof/Machine/Run.lean ====
section
/-! DEFINITION. The state a step leaves behind whatever it answers, with the fault mark of spec rules R40 and R182. -/

namespace Sys2Proof.Machine

/-- The state with its fault mark set and nothing else changed (R182). -/
def State.marked (s : State) (r : Fault) : State := { s with faultMark := some r }

/-- The state after a step: the next state, or, where the step raises a fault, the state before it with the fault mark
set (R182; assumption 12). -/
def State.afterStep (s : State) : State :=
  match step s with
  | .next t => t
  | .fault r => s.marked r
  | .refused _ => s

end Sys2Proof.Machine
end

