-- ==== Sys2Proof/Safety.lean ====
section
/-! DEFINITION. The terms that claims about the machine are stated in: a state that runs, the invariant, what a change
is limited to, and which instructions the spec lets write what. -/

namespace Sys2Proof.Machine

/-- The processor executes the instruction at PC: no fault mark, the test pin low, HALTED 0. -/
abbrev State.running (s : State) : Prop := s.faultMark = none ∧ s.testPin = false ∧ s.halted = false

/-- A final state: HALTED is 1 and no fault is recorded. A run that ends in it has ended by HLT; a faulted state is not
final (R182, R205; the spec's own decision D29). -/
abbrev State.final (s : State) : Prop := s.halted = true ∧ s.faultMark = none

/-- The invariant of the machine: RAM in canonical form, no more return addresses than the stack RAM holds (R31), and
no uploaded PC while the test pin is low (R200). -/
abbrev State.inv (s : State) : Prop :=
  s.mem.wf ∧ s.stack.length ≤ Config.stackDepth ∧ (s.testPin = false → s.uploadedPc = none)

/-- A piece of state that an instruction may write. PC is not listed: every statement says what PC becomes. -/
inductive Item where
  | reg (r : Reg)
  | acc
  | carry
  | stack
  | mem (a : Addr)
  | halted
  | out
  | draws
  deriving DecidableEq, Repr

/-- From s to t nothing has changed but PC and the listed pieces of state (R110): every register, every byte of RAM
and every other field that the list does not name is as before. -/
def OnlyChanges (ch : List Item) (s t : State) : Prop :=
  (∀ q, Item.reg q ∉ ch → t.reg q = s.reg q) ∧
  (Item.acc ∉ ch → t.acc = s.acc) ∧
  (Item.carry ∉ ch → t.carry = s.carry) ∧
  (Item.stack ∉ ch → t.stack = s.stack) ∧
  (∀ a, Item.mem a ∉ ch → t.readByte a = s.readByte a) ∧
  (Item.halted ∉ ch → t.halted = s.halted) ∧
  (Item.out ∉ ch → t.out = s.out) ∧
  (Item.draws ∉ ch → t.draws = s.draws) ∧
  t.faultMark = s.faultMark ∧ t.testPin = s.testPin ∧ t.loadPin = s.loadPin ∧
  t.uploadedPc = s.uploadedPc ∧ t.kbiBlocks = s.kbiBlocks

/-- The register an instruction may write, by the list of R22. -/
def regWritten : Instr → Option Reg
  | .fim r _ | .zer r | .fin r | .ftc r _ | .inc r | .ino r | .isz r _ | .add r | .xor r | .sub r | .xch r => some r
  | _ => none

/-- Whether an instruction is on the list of R24 of those that write the accumulator. -/
def writesAcc : Instr → Bool
  | .ld _ | .xch _ | .bbl _ | .ldm _ | .rdr _ | .kbi | .clb | .iac | .cma | .ral | .rar | .tcc | .dac | .daa => true
  | _ => false

/-- Whether an instruction can set PC otherwise than to the next instruction, by the list of R29. -/
def transfers : Instr → Bool
  | .jcn _ _ | .isz _ _ | .jun _ | .jms _ | .bbl _ => true
  | _ => false

/-- The address an instruction stores to in a state: STO's operand, STI's pointer, and none for the rest (R50, R52). -/
def storesTo (s : State) : Instr → Option Addr
  | .sto _ a => some a
  | .sti _ => some s.pointer
  | _ => none

/-- One instruction executed n times in a row. -/
def execTimes (i : Instr) : Nat → State → Result
  | 0, s => .next s
  | n + 1, s =>
    match exec i s with
    | .next t => execTimes i n t
    | .fault r => .fault r
    | .refused r => .refused r

/-- Whether JCN with condition bits c jumps in a state: any selected test holds, or, with C1 = 1, none of them does
(R112; the spec's own decision D6). The test signal is a free value. -/
def jumpTaken (c : Nibble) (s : State) : Prop :=
  let cond := (c.getLsbD 2 = true ∧ s.acc = 0) ∨ (c.getLsbD 1 = true ∧ s.carry = true) ∨
    (c.getLsbD 0 = true ∧ Config.testSignal s.draws = true)
  if c.getLsbD 3 = true then ¬cond else cond

/-- The carry flag after an instruction, by the list of R26: every instruction that the list does not name leaves C
unchanged. -/
def carryAfter (i : Instr) (s : State) : Bool :=
  match i with
  | .inc r => decide (s.reg r = 0xFF)
  | .ino r => s.carry && decide (s.reg r = 0xFF)
  | .add r => decide (256 ≤ s.acc.toNat + (s.reg r).toNat + s.carry.toNat)
  | .sub r => decide (s.acc.toNat < (s.reg r).toNat + s.carry.toNat)
  | .iac => decide (s.acc = 0xFF)
  | .dac => decide (s.acc = 0x00)
  | .ral => s.acc.getLsbD 7
  | .rar => s.acc.getLsbD 0
  | .cmc => !s.carry
  | .clb | .clc | .tcc => false
  | .stc => true
  | .daa => (Config.daaFn s.acc s.carry).2
  | .nop | .jcn _ _ | .fim _ _ | .zer _ | .fin _ | .ftc _ _ | .jun _ | .jms _ | .isz _ _ | .sto _ _ => s.carry
  | .xor _ | .sti _ | .ld _ | .xch _ | .bbl _ | .ldm _ | .wmp _ | .rdr _ | .kbi | .asc | .cma | .hlt => s.carry

/-- The 77 values of byte 0 that no row produces, by the ranges of R98. -/
def unassignedByte (b : Byte) : Prop :=
  (0x01 ≤ b.toNat ∧ b.toNat ≤ 0x0F) ∨ (0x41 ≤ b.toNat ∧ b.toNat ≤ 0x4F) ∨ (0x51 ≤ b.toNat ∧ b.toNat ≤ 0x5F) ∨
  (0xA1 ≤ b.toNat ∧ b.toNat ≤ 0xBF ∧ b.toNat % 2 = 1) ∨ b.toNat = 0xE0 ∨
  (0xE2 ≤ b.toNat ∧ b.toNat ≤ 0xE9) ∨ (0xEB ≤ b.toNat ∧ b.toNat ≤ 0xEF) ∨ b.toNat = 0xF9 ∨ b.toNat = 0xFE

end Sys2Proof.Machine
end

