-- ==== Sys2Proof/Certificates/Slice0/Obligations.lean ====
section
/-! DEFINITION. The statements for the provers. Each docstring names the rule of spec/ it comes from, and, where the
rule is the spec's own decision on a point its source leaves open, that decision. -/

section

open Sys2Proof Sys2Proof.Machine

/-! ### Moving data -/

/-- NOP (R111): byte 0 = 0x00; PC advances by 1 and nothing else changes. -/
def Obligations.NopResult : Prop :=
  (∀ rest, decode (0x00 :: rest) = .ok (.nop, rest)) ∧
  ∀ s, ∃ t, exec .nop s = .next t ∧ t.pc = s.pc + 1 ∧ OnlyChanges [] s t

/-- FIM (R113): register r receives the second byte. -/
def Obligations.FimResult : Prop :=
  (∀ r d rest, decode (BitVec.ofNat 8 (0x20 + 2 * r.index) :: d :: rest) = .ok (.fim r d, rest)) ∧
  ∀ r d s, ∃ t, exec (.fim r d) s = .next t ∧ t.reg r = d ∧ t.pc = s.pc + 2 ∧ OnlyChanges [.reg r] s t

/-- ZER (R114): register r receives 0. -/
def Obligations.ZerResult : Prop :=
  (∀ r rest, decode (BitVec.ofNat 8 (0x21 + 2 * r.index) :: rest) = .ok (.zer r, rest)) ∧
  ∀ r s, ∃ t, exec (.zer r) s = .next t ∧ t.reg r = 0x00 ∧ t.pc = s.pc + 1 ∧ OnlyChanges [.reg r] s t

/-- FIN (R115): register r receives the byte of RAM at the address formed by R1 (high) and R0 (low) before the
instruction, also where r is R0 or R1. -/
def Obligations.FinResult : Prop :=
  (∀ r rest, decode (BitVec.ofNat 8 (0x30 + 2 * r.index) :: rest) = .ok (.fin r, rest)) ∧
  ∀ r s, ∃ t, exec (.fin r) s = .next t ∧ t.reg r = s.readByte (s.reg .r1 ++ s.reg .r0) ∧ t.pc = s.pc + 1 ∧
    OnlyChanges [.reg r] s t

/-- FTC (R116): register r receives the byte of RAM at the address operand, its low byte first. -/
def Obligations.FtcResult : Prop :=
  (∀ r lo hi rest,
    decode (BitVec.ofNat 8 (0x31 + 2 * r.index) :: lo :: hi :: rest) = .ok (.ftc r (hi ++ lo), rest)) ∧
  ∀ r a s, ∃ t, exec (.ftc r a) s = .next t ∧ t.reg r = s.readByte a ∧ t.pc = s.pc + 3 ∧ OnlyChanges [.reg r] s t

/-- STO (R122): the byte of RAM at the address operand receives register r; every other byte is as before. -/
def Obligations.StoResult : Prop :=
  (∀ r lo hi rest,
    decode (BitVec.ofNat 8 (0x71 + 2 * r.index) :: lo :: hi :: rest) = .ok (.sto r (hi ++ lo), rest)) ∧
  ∀ r a s, ∃ t, exec (.sto r a) s = .next t ∧ t.readByte a = s.reg r ∧ t.pc = s.pc + 3 ∧ OnlyChanges [.mem a] s t

/-- STI (R126): the byte of RAM at the address formed by R1 (high) and R0 (low) receives register r, also where r is R0
or R1; every other byte is as before. -/
def Obligations.StiResult : Prop :=
  (∀ r rest, decode (BitVec.ofNat 8 (0x91 + 2 * r.index) :: rest) = .ok (.sti r, rest)) ∧
  ∀ r s, ∃ t, exec (.sti r) s = .next t ∧ t.readByte (s.reg .r1 ++ s.reg .r0) = s.reg r ∧ t.pc = s.pc + 1 ∧
    OnlyChanges [.mem (s.reg .r1 ++ s.reg .r0)] s t

/-- LD (R127): the accumulator receives register r. -/
def Obligations.LdResult : Prop :=
  (∀ r rest, decode (BitVec.ofNat 8 (0xA0 + 2 * r.index) :: rest) = .ok (.ld r, rest)) ∧
  ∀ r s, ∃ t, exec (.ld r) s = .next t ∧ t.acc = s.reg r ∧ t.pc = s.pc + 1 ∧ OnlyChanges [.acc] s t

/-- XCH (R128): register r and the accumulator exchange the values they had before. -/
def Obligations.XchResult : Prop :=
  (∀ r rest, decode (BitVec.ofNat 8 (0xB0 + 2 * r.index) :: rest) = .ok (.xch r, rest)) ∧
  ∀ r s, ∃ t, exec (.xch r) s = .next t ∧ t.reg r = s.acc ∧ t.acc = s.reg r ∧ t.pc = s.pc + 1 ∧
    OnlyChanges [.reg r, .acc] s t

/-- LDM (R130): the accumulator receives the 4-bit immediate with zeros above it (the spec's own decision D9;
assumption 19). -/
def Obligations.LdmResult : Prop :=
  (∀ (d : Nibble) rest, decode (BitVec.ofNat 8 (0xD0 + d.toNat) :: rest) = .ok (.ldm d, rest)) ∧
  ∀ d s, ∃ t, exec (.ldm d) s = .next t ∧ t.acc.toNat = d.toNat ∧ t.pc = s.pc + 1 ∧ OnlyChanges [.acc] s t

/-! ### Arithmetic into a register -/

/-- INC (R119): register r plus 1 modulo 256; C is 1 exactly when the register was 0xFF (the spec's own decisions D7
and D8; assumption 18). -/
def Obligations.IncResult : Prop :=
  (∀ r rest, decode (BitVec.ofNat 8 (0x60 + 2 * r.index) :: rest) = .ok (.inc r, rest)) ∧
  ∀ r s, ∃ t, exec (.inc r) s = .next t ∧ (t.reg r).toNat = ((s.reg r).toNat + 1) % 256 ∧
    (t.carry = true ↔ s.reg r = 0xFF) ∧ t.pc = s.pc + 1 ∧ OnlyChanges [.reg r, .carry] s t

/-- INO (R120): register r plus C modulo 256; the new C is 1 exactly when the old C was 1 and the register was 0xFF
(the spec's own decisions D7 and D8; assumption 18). -/
def Obligations.InoResult : Prop :=
  (∀ r rest, decode (BitVec.ofNat 8 (0x61 + 2 * r.index) :: rest) = .ok (.ino r, rest)) ∧
  ∀ r s, ∃ t, exec (.ino r) s = .next t ∧ (t.reg r).toNat = ((s.reg r).toNat + s.carry.toNat) % 256 ∧
    (t.carry = true ↔ s.carry = true ∧ s.reg r = 0xFF) ∧ t.pc = s.pc + 1 ∧ OnlyChanges [.reg r, .carry] s t

/-- ADD (R123): register r receives ACC plus r plus C modulo 256, C the carry out, and ACC is unchanged (the spec's own
decisions D7, D8 and its resolution C1; assumptions 18 and 20). -/
def Obligations.AddResult : Prop :=
  (∀ r rest, decode (BitVec.ofNat 8 (0x80 + 2 * r.index) :: rest) = .ok (.add r, rest)) ∧
  ∀ r s, ∃ t, exec (.add r) s = .next t ∧
    (t.reg r).toNat = (s.acc.toNat + (s.reg r).toNat + s.carry.toNat) % 256 ∧
    (t.carry = true ↔ 256 ≤ s.acc.toNat + (s.reg r).toNat + s.carry.toNat) ∧ t.pc = s.pc + 1 ∧
    OnlyChanges [.reg r, .carry] s t

/-- XOR (R124): register r receives ACC xor r, bit by bit; ACC and C are not written. That the register and not ACC is
the destination is the spec's own resolution C1 (assumption 20). -/
def Obligations.XorResult : Prop :=
  (∀ r rest, decode (BitVec.ofNat 8 (0x81 + 2 * r.index) :: rest) = .ok (.xor r, rest)) ∧
  ∀ r s, ∃ t, exec (.xor r) s = .next t ∧
    (∀ k, (t.reg r).getLsbD k = Bool.xor (s.acc.getLsbD k) ((s.reg r).getLsbD k)) ∧ t.pc = s.pc + 1 ∧
    OnlyChanges [.reg r] s t

/-- SUB (R125): register r receives ACC minus r minus C modulo 256, C is 1 exactly when ACC is less than r plus C, and
ACC is unchanged (the spec's own decisions D7, D8 and its resolution C1; assumptions 18 and 20). -/
def Obligations.SubResult : Prop :=
  (∀ r rest, decode (BitVec.ofNat 8 (0x90 + 2 * r.index) :: rest) = .ok (.sub r, rest)) ∧
  ∀ r s, ∃ t, exec (.sub r) s = .next t ∧
    ((t.reg r).toNat : Int) = ((s.acc.toNat : Int) - (s.reg r).toNat - s.carry.toNat) % 256 ∧
    (t.carry = true ↔ s.acc.toNat < (s.reg r).toNat + s.carry.toNat) ∧ t.pc = s.pc + 1 ∧
    OnlyChanges [.reg r, .carry] s t

/-! ### Control transfer -/

/-- JCN (R112): PC becomes the address where the condition holds and PC + 3 where not, and the test signal is drawn only
where C4 is 1 (the spec's own decisions D6 and D13; assumptions 7 and 17). -/
def Obligations.JcnResult : Prop :=
  (∀ (c : Nibble) lo hi rest,
    decode (BitVec.ofNat 8 (0x10 + c.toNat) :: lo :: hi :: rest) = .ok (.jcn c (hi ++ lo), rest)) ∧
  ∀ c a s, ∃ t, exec (.jcn c a) s = .next t ∧ (jumpTaken c s → t.pc = a) ∧ (¬jumpTaken c s → t.pc = s.pc + 3) ∧
    t.draws = s.draws + (if c.getLsbD 0 = true then 1 else 0) ∧ OnlyChanges [.draws] s t

/-- JUN (R117): PC receives the address operand. -/
def Obligations.JunResult : Prop :=
  (∀ lo hi rest, decode (0x40 :: lo :: hi :: rest) = .ok (.jun (hi ++ lo), rest)) ∧
  ∀ a s, ∃ t, exec (.jun a) s = .next t ∧ t.pc = a ∧ OnlyChanges [] s t

/-- JMS (R118): with fewer than 128 entries on the stack, PC + 3 is pushed and PC receives the address; with 128 or more
the fault StackOverflow is raised (the spec's own decisions D3, D4 and D5; assumptions 5, 6 and 16). -/
def Obligations.JmsResult : Prop :=
  (∀ lo hi rest, decode (0x50 :: lo :: hi :: rest) = .ok (.jms (hi ++ lo), rest)) ∧
  (∀ a s, s.stack.length < 128 → ∃ t, exec (.jms a) s = .next t ∧ t.stack = (s.pc + 3) :: s.stack ∧ t.pc = a ∧
    OnlyChanges [.stack] s t) ∧
  ∀ a s, 128 ≤ s.stack.length → exec (.jms a) s = .fault (.stackOverflow s.pc)

/-- ISZ (R121): register r plus 1 modulo 256; PC becomes the address where that is not zero and PC + 3 where it is; C is
not written. -/
def Obligations.IszResult : Prop :=
  (∀ r lo hi rest,
    decode (BitVec.ofNat 8 (0x70 + 2 * r.index) :: lo :: hi :: rest) = .ok (.isz r (hi ++ lo), rest)) ∧
  ∀ r a s, ∃ t, exec (.isz r a) s = .next t ∧ (t.reg r).toNat = ((s.reg r).toNat + 1) % 256 ∧
    (s.reg r ≠ 0xFF → t.pc = a) ∧ (s.reg r = 0xFF → t.pc = s.pc + 3) ∧ OnlyChanges [.reg r] s t

/-- BBL (R129): with an entry on the stack, PC receives the top one, it is removed, and ACC receives 0000DDDD; with none
the fault StackUnderflow is raised (the spec's own decision D5). -/
def Obligations.BblResult : Prop :=
  (∀ (d : Nibble) rest, decode (BitVec.ofNat 8 (0xC0 + d.toNat) :: rest) = .ok (.bbl d, rest)) ∧
  (∀ d s v below, s.stack = v :: below → ∃ t, exec (.bbl d) s = .next t ∧ t.pc = v ∧ t.stack = below ∧
    t.acc.toNat = d.toNat ∧ OnlyChanges [.stack, .acc] s t) ∧
  ∀ d s, s.stack = [] → exec (.bbl d) s = .fault (.stackUnderflow s.pc)

/-! ### Input and output -/

/-- WMP (R150) and ASC (R153): ACC goes out, as it stands, as one event at the end of OUT (the spec's own decisions D15
and D16; assumption 25). -/
def Obligations.OutputResult : Prop :=
  (∀ p rest, decode (0xE1 :: p :: rest) = .ok (.wmp p, rest)) ∧
  (∀ rest, decode (0xFD :: rest) = .ok (.asc, rest)) ∧
  (∀ p s, ∃ t, exec (.wmp p) s = .next t ∧ t.out = s.out ++ [.port p s.acc] ∧ t.pc = s.pc + 2 ∧
    OnlyChanges [.out] s t) ∧
  ∀ s, ∃ t, exec .asc s = .next t ∧ t.out = s.out ++ [.vdu s.acc] ∧ t.pc = s.pc + 1 ∧ OnlyChanges [.out] s t

/-- RDR (R151): ACC receives the value drawn for the port, which is a free value (the spec's own decision D15;
assumption 9). -/
def Obligations.RdrResult : Prop :=
  (∀ p rest, decode (0xEA :: p :: rest) = .ok (.rdr p, rest)) ∧
  ∀ p s, ∃ t, exec (.rdr p) s = .next t ∧ t.acc = Config.portIn p s.draws ∧ t.draws = s.draws + 1 ∧
    t.pc = s.pc + 2 ∧ OnlyChanges [.acc, .draws] s t

/-- KBI with KBI_BLOCKS false (R152): ACC receives the value drawn from the keyboard, which is a free value (the spec's
own decision D14; assumption 8). -/
def Obligations.KbiResult : Prop :=
  (∀ rest, decode (0xFC :: rest) = .ok (.kbi, rest)) ∧
  ∀ s, s.kbiBlocks = false → ∃ t, exec .kbi s = .next t ∧ t.acc = Config.keyboard s.draws ∧
    t.draws = s.draws + 1 ∧ t.pc = s.pc + 1 ∧ OnlyChanges [.acc, .draws] s t

/-- KBI with KBI_BLOCKS true (R152): where a key is offered it is as above, and where none is offered the processor
stays at the KBI, and nothing changes but the count of draws (the model's reading of "wait", assumption 8). -/
def Obligations.KbiMayWait : Prop :=
  ∀ s, s.kbiBlocks = true → ∃ t, exec .kbi s = .next t ∧ t.draws = s.draws + 1 ∧
    (Config.keyOffered s.draws = true →
      t.acc = Config.keyboard s.draws ∧ t.pc = s.pc + 1 ∧ OnlyChanges [.acc, .draws] s t) ∧
    (Config.keyOffered s.draws = false → t.pc = s.pc ∧ OnlyChanges [.draws] s t)

/-! ### The accumulator group -/

/-- CLB (R160), CLC (R161) and STC (R169): C receives a constant, and CLB clears ACC too. -/
def Obligations.CarryConstants : Prop :=
  (∀ rest, decode (0xF0 :: rest) = .ok (.clb, rest)) ∧
  (∀ rest, decode (0xF1 :: rest) = .ok (.clc, rest)) ∧
  (∀ rest, decode (0xFA :: rest) = .ok (.stc, rest)) ∧
  (∀ s, ∃ t, exec .clb s = .next t ∧ t.acc = 0x00 ∧ t.carry = false ∧ t.pc = s.pc + 1 ∧
    OnlyChanges [.acc, .carry] s t) ∧
  (∀ s, ∃ t, exec .clc s = .next t ∧ t.carry = false ∧ t.pc = s.pc + 1 ∧ OnlyChanges [.carry] s t) ∧
  ∀ s, ∃ t, exec .stc s = .next t ∧ t.carry = true ∧ t.pc = s.pc + 1 ∧ OnlyChanges [.carry] s t

/-- IAC (R162) and DAC (R168): ACC plus or minus 1 modulo 256, C the carry out or the borrow (the spec's own decisions
D7 and D8; assumption 18). -/
def Obligations.AccCountResult : Prop :=
  (∀ rest, decode (0xF2 :: rest) = .ok (.iac, rest)) ∧
  (∀ rest, decode (0xF8 :: rest) = .ok (.dac, rest)) ∧
  (∀ s, ∃ t, exec .iac s = .next t ∧ t.acc.toNat = (s.acc.toNat + 1) % 256 ∧ (t.carry = true ↔ s.acc = 0xFF) ∧
    t.pc = s.pc + 1 ∧ OnlyChanges [.acc, .carry] s t) ∧
  ∀ s, ∃ t, exec .dac s = .next t ∧ (t.acc.toNat : Int) = ((s.acc.toNat : Int) - 1) % 256 ∧
    (t.carry = true ↔ s.acc = 0x00) ∧ t.pc = s.pc + 1 ∧ OnlyChanges [.acc, .carry] s t

/-- CMC (R163): C is complemented and ACC is unchanged. -/
def Obligations.CmcResult : Prop :=
  (∀ rest, decode (0xF3 :: rest) = .ok (.cmc, rest)) ∧
  ∀ s, ∃ t, exec .cmc s = .next t ∧ t.carry.toNat = 1 - s.carry.toNat ∧ t.pc = s.pc + 1 ∧ OnlyChanges [.carry] s t

/-- CMA (R164): ACC receives 255 minus ACC, its bitwise complement; C is not written. -/
def Obligations.CmaResult : Prop :=
  (∀ rest, decode (0xF4 :: rest) = .ok (.cma, rest)) ∧
  ∀ s, ∃ t, exec .cma s = .next t ∧ t.acc.toNat = 255 - s.acc.toNat ∧
    (∀ k, k < 8 → t.acc.getLsbD k = !s.acc.getLsbD k) ∧ t.pc = s.pc + 1 ∧ OnlyChanges [.acc] s t

/-- RAL (R165): the 9-bit ring of C and ACC turns one place to the left. -/
def Obligations.RalResult : Prop :=
  (∀ rest, decode (0xF5 :: rest) = .ok (.ral, rest)) ∧
  ∀ s, ∃ t, exec .ral s = .next t ∧ t.acc.toNat = (2 * s.acc.toNat + s.carry.toNat) % 256 ∧
    (t.carry = true ↔ 256 ≤ 2 * s.acc.toNat + s.carry.toNat) ∧ t.carry = s.acc.getLsbD 7 ∧ t.pc = s.pc + 1 ∧
    OnlyChanges [.acc, .carry] s t

/-- RAR (R166): the 9-bit ring of C and ACC turns one place to the right. -/
def Obligations.RarResult : Prop :=
  (∀ rest, decode (0xF6 :: rest) = .ok (.rar, rest)) ∧
  ∀ s, ∃ t, exec .rar s = .next t ∧ t.acc.getLsbD 7 = s.carry ∧
    (∀ k, k < 7 → t.acc.getLsbD k = s.acc.getLsbD (k + 1)) ∧ t.carry = s.acc.getLsbD 0 ∧ t.pc = s.pc + 1 ∧
    OnlyChanges [.acc, .carry] s t

/-- TCC (R167): ACC receives 0x00 or 0x01, the old carry, and C is cleared (the spec's own decision D9; assumption
19). -/
def Obligations.TccResult : Prop :=
  (∀ rest, decode (0xF7 :: rest) = .ok (.tcc, rest)) ∧
  ∀ s, ∃ t, exec .tcc s = .next t ∧ t.acc = (if s.carry then 0x01 else 0x00) ∧ t.carry = false ∧
    t.pc = s.pc + 1 ∧ OnlyChanges [.acc, .carry] s t

/-- DAA (R170): ACC and C receive what the open parameter DAA_FN gives for ACC and C, whatever function that is (the
spec's own decision D10; assumption 10). -/
def Obligations.DaaResult : Prop :=
  (∀ rest, decode (0xFB :: rest) = .ok (.daa, rest)) ∧
  ∀ s, ∃ t, exec .daa s = .next t ∧ (t.acc, t.carry) = Config.daaFn s.acc s.carry ∧ t.pc = s.pc + 1 ∧
    OnlyChanges [.acc, .carry] s t

/-- HLT (R171): HALTED becomes 1; PC advances by 1 and C is not written (the spec's own decision D11; assumption
21). -/
def Obligations.HltResult : Prop :=
  (∀ rest, decode (0xFF :: rest) = .ok (.hlt, rest)) ∧
  ∀ s, ∃ t, exec .hlt s = .next t ∧ t.halted = true ∧ t.pc = s.pc + 1 ∧ OnlyChanges [.halted] s t

/-! ### What no instruction does -/

/-- Which instructions write a general register (10_state.md section 1): only the register that the instruction selects,
and only by the instructions listed there. That ADD, XOR and SUB are on the list is the spec's own resolution C1
(assumption 20). -/
def Obligations.RegisterWriters : Prop :=
  ∀ i s t, exec i s = .next t → ∀ q, regWritten i ≠ some q → t.reg q = s.reg q

/-- Which instructions write the accumulator (10_state.md section 2). That ADD, XOR and SUB do not is the spec's own
resolution C1 (assumption 20). -/
def Obligations.AccumulatorWriters : Prop :=
  ∀ i s t, exec i s = .next t → writesAcc i = false → t.acc = s.acc

/-- The carry flag after every instruction, by the list of R26 (the spec's own decisions D7, D8 and D10 and its
resolution C2; assumptions 10, 18 and 21). -/
def Obligations.CarryAfterEach : Prop :=
  ∀ i s t, exec i s = .next t → t.carry = carryAfter i s

/-- Which instructions write RAM, and where (20_memory.md section 1): STO at its operand and STI at R1.R0; every other
byte keeps its value under every instruction. -/
def Obligations.StoresOnlyWhereNamed : Prop :=
  ∀ i s t, exec i s = .next t → ∀ a, storesTo s i ≠ some a → t.readByte a = s.readByte a

/-- The call stack changes only by the push of JMS and the pop of BBL (10_state.md section 5). That the value JMS pushes is
PC + 3 is the spec's own decision D3 (40_basic_instructions.md JMS; assumption 16). -/
def Obligations.StackOnlyByCalls : Prop :=
  ∀ i s t, exec i s = .next t → t.stack = s.stack ∨ (∃ a, i = .jms a ∧ t.stack = (s.pc + 3) :: s.stack) ∨
    ∃ d v, i = .bbl d ∧ s.stack = v :: t.stack

/-- OUT grows by the events of WMP and ASC and never loses one (10_state.md section 7; the spec's own decisions D15 and
D16; assumption 25). -/
def Obligations.OutputHistory : Prop :=
  ∀ i s t, exec i s = .next t → t.out = s.out ++ (match i with
    | .wmp p => [.port p s.acc]
    | .asc => [.vdu s.acc]
    | _ => [])

/-- An instruction that transfers no control ends with PC plus its length, modulo 65536, unless it is a KBI that waits
(10_state.md section 4; the spec's own decisions D1 and D2; assumptions 8 and 15). HLT is one of them: that it advances
PC is the spec's own decision D11 (R171; assumption 21), and R171 lets no claim depend on the PC of a halted state. -/
def Obligations.SequentialAdvance : Prop :=
  ∀ i s t, exec i s = .next t → transfers i = false → ¬(i = .kbi ∧ s.keyAwaited = true) →
    t.pc.toNat = (s.pc.toNat + i.size) % 65536

/-- An instruction is never refused, and it faults in exactly two situations: JMS on a full call stack and BBL on an
empty one (60_exceptions.md sections 1 and 3; the spec's own decisions D5 and D22). The
depth 128 is the spec's own decision D4 (assumption 5); more than 128 entries count as full (the model's choice,
assumption 6). DAA is not refused because the model has a DAA_FN, an opaque one: the spec leaves it
open (its own decision D10, R170) and has a model without one refuse DAA (R182; assumption 10). -/
def Obligations.FaultsExactly : Prop :=
  (∀ i s r, exec i s ≠ .refused r) ∧
  ∀ i s r, exec i s = .fault r ↔
    (∃ a, i = .jms a ∧ 128 ≤ s.stack.length ∧ r = .stackOverflow s.pc) ∨
    ∃ d, i = .bbl d ∧ s.stack = [] ∧ r = .stackUnderflow s.pc

/-- No instruction reads HALTED: with HALTED at either value it does the same to everything else, and only HLT writes it
(10_state.md section 7). -/
def Obligations.HaltedUnread : Prop :=
  ∀ i s t b, exec i s = .next t →
    exec i { s with halted := b } = .next { t with halted := b || decide (i = .hlt) }

/-! ### Encoding -/

/-- Decoding the encoding of any instruction, whatever bytes follow, gives that instruction and those bytes. The encoding is
read by the spec's own decision D30 (assumption 24). -/
def Obligations.DecodeOfEncode : Prop :=
  ∀ i rest, decode (encode i ++ rest) = .ok (i, rest)

/-- Where decoding succeeds, the bytes are the encoding of the instruction followed by the rest: no encoding has two
readings and no bit of one is ignored. The encoding is read by the spec's own decision D30 (assumption 24). -/
def Obligations.EncodeOfDecode : Prop :=
  ∀ bs i rest, decode bs = .ok (i, rest) → bs = encode i ++ rest

/-- The length of an instruction by its opcode byte (R81). -/
def Obligations.LengthByOpcode : Prop :=
  ∀ b : Byte, (unassignedByte b → lengthOf b = none) ∧
    (¬unassignedByte b → lengthOf b = some (
      if (0x10 ≤ b.toNat ∧ b.toNat ≤ 0x1F) ∨ (0x31 ≤ b.toNat ∧ b.toNat ≤ 0x3F ∧ b.toNat % 2 = 1) ∨
          b.toNat = 0x40 ∨ b.toNat = 0x50 ∨ (0x70 ≤ b.toNat ∧ b.toNat ≤ 0x7F) then 3
      else if (0x20 ≤ b.toNat ∧ b.toNat ≤ 0x2E ∧ b.toNat % 2 = 0) ∨ b.toNat = 0xE1 ∨ b.toNat = 0xEA then 2
      else 1))

/-- The bytes that no instruction begins with are exactly the 77 unassigned values (R98). -/
def Obligations.UnassignedOpcodes : Prop :=
  (∀ b rest, decode (b :: rest) = .error (.unassigned b) ↔ unassignedByte b) ∧
  ∃ l : List Byte, l.length = 77 ∧ l.Nodup ∧ ∀ b, b ∈ l ↔ unassignedByte b

/-- Words written out from the spec: the decoding vectors of 95_test_vectors.md section 2.1, one of each format, and the
unassigned byte of vector V152 in its section 2.2 (30_encoding.md section 5). -/
def Obligations.DecodedWords : Prop :=
  decode [0x1C, 0x34, 0x12] = .ok (.jcn 12 0x1234, []) ∧ decode [0x2A, 0x4F] = .ok (.fim .r5 0x4F, []) ∧
  decode [0x3F, 0xCD, 0xAB] = .ok (.ftc .r7 0xABCD, []) ∧ decode [0x40, 0xFF, 0xFF] = .ok (.jun 0xFFFF, []) ∧
  decode [0x9E] = .ok (.sub .r7, []) ∧ decode [0xDA] = .ok (.ldm 10, []) ∧
  decode [0xE1, 0x80] = .ok (.wmp 128, []) ∧ decode [0xFB] = .ok (.daa, []) ∧
  decode [0x41, 0x00, 0x80] = .error (.unassigned 0x41)

/-! ### The step -/

/-- While the processor runs, a step is the execution of the instruction decoded from the bytes at PC, PC + 1 and
PC + 2, modulo 65536 by the spec's own decision D1 (assumption 15). -/
def Obligations.StepRunsDecoded : Prop :=
  ∀ s i rest, s.running →
    decode [s.readByte s.pc, s.readByte (s.pc + 1), s.readByte (s.pc + 2)] = .ok (i, rest) → step s = exec i s

/-- While the processor runs, an unassigned byte at PC raises IllegalOpcode with that byte and PC (30_encoding.md
section 5; the spec's own decision D12; assumption 14). -/
def Obligations.IllegalOpcodeFault : Prop :=
  ∀ s, s.running → unassignedByte (s.readByte s.pc) →
    step s = .fault (.illegalOpcode (s.readByte s.pc) s.pc)

/-- While HALTED is 1 or the test pin is high a step changes nothing (10_state.md section 7; as a step of the model,
assumption 11). -/
def Obligations.StoppedStaysPut : Prop :=
  ∀ s, s.faultMark = none → s.halted = true ∨ s.testPin = true → step s = .next s

/-- A fault changes nothing but the fault mark, and a marked state has no further step (60_exceptions.md section 1; the
spec's own decision D22; assumption 12). -/
def Obligations.FaultMarkFinal : Prop :=
  (∀ s r, step s = .fault r → s.afterStep = { s with faultMark := some r }) ∧
  ∀ s r, s.faultMark = some r → step s = .fault r ∧ s.afterStep = s

/-- Every step keeps the invariant: RAM in canonical form, at most 128 return addresses, no uploaded PC while the test
pin is low. The depth is the spec's own decision D4 (assumption 5); that RAM has a canonical form, and that an uploaded PC
is held, are the model's (assumptions 1 and 13). -/
def Obligations.StepKeepsInvariant : Prop :=
  ∀ s t, s.inv → step s = .next t → t.inv

/-- The invariant holds at reset. That the stack is empty then is the spec's own decision D24; that RAM lists nothing, that
the test pin is low and that no uploaded PC is held are the model's choices (assumptions 1, 4 and 13). -/
def Obligations.ResetInvariant : Prop :=
  State.reset.inv

/-- What the spec fixes of the state at the start of execution (70_reset_and_hazards.md section 1): HALTED is 0, the call
stack and OUT are empty and no fault is recorded, so the processor runs (the spec's own decision D24); that the test pin
is low and that the memory lists nothing are the model's (assumptions 4 and 1). -/
def Obligations.ResetState : Prop :=
  State.reset.halted = false ∧ State.reset.stack = [] ∧ State.reset.out = [] ∧ State.reset.faultMark = none ∧
  State.reset.running ∧ State.reset.mem = []

/-! ### Several instructions -/

/-- A JMS followed by a BBL of what it pushed continues after the JMS with the stack as it was (40_basic_instructions.md
JMS and BBL; the spec's own decisions D3 and D4; assumptions 5 and 16). -/
def Obligations.CallThenReturn : Prop :=
  ∀ a d s, s.stack.length < 128 → ∃ t u, exec (.jms a) s = .next t ∧ exec (.bbl d) t = .next u ∧ t.pc = a ∧
    u.pc = s.pc + 3 ∧ u.stack = s.stack ∧ OnlyChanges [.acc] s u

/-- INC of one register, then INO of another, is a 16-bit increment of the pair, with C set exactly where the pair was
0xFFFF (40_basic_instructions.md INO; the spec's own decisions D7 and D8; assumption 18). -/
def Obligations.IncrementPair : Prop :=
  ∀ lo hi s, lo ≠ hi → ∃ t u, exec (.inc lo) s = .next t ∧ exec (.ino hi) t = .next u ∧
    u.reg hi ++ u.reg lo = (s.reg hi ++ s.reg lo) + (1 : Addr) ∧
    (u.carry = true ↔ s.reg hi ++ s.reg lo = (0xFFFF : Addr)) ∧ OnlyChanges [.reg lo, .reg hi, .carry] s u

/-- RAR undoes RAL and RAL undoes RAR, and nine RAL in a row restore ACC and C (42_accumulator_group.md RAL and RAR). -/
def Obligations.RollsUndo : Prop :=
  (∀ s, ∃ t u, exec .ral s = .next t ∧ exec .rar t = .next u ∧ u.acc = s.acc ∧ u.carry = s.carry) ∧
  (∀ s, ∃ t u, exec .rar s = .next t ∧ exec .ral t = .next u ∧ u.acc = s.acc ∧ u.carry = s.carry) ∧
  ∀ s, ∃ t, execTimes .ral 9 s = .next t ∧ t.pc = s.pc + 9 ∧ OnlyChanges [] s t

/-- A byte stored by STO is what the next load of that address and every later fetch of it read (20_memory.md sections
7 and 8; the spec's own decisions D20 and D21; assumption 22). -/
def Obligations.StoredByteSeen : Prop :=
  ∀ r a q s, ∃ t u, exec (.sto r a) s = .next t ∧ exec (.ftc q a) t = .next u ∧ u.reg q = s.reg r ∧
    ∀ k, t.fetchByte k = if t.pc + BitVec.ofNat 16 k = a then s.reg r else s.readByte (t.pc + BitVec.ofNat 16 k)

/-! ### The host -/

/-- The bootstrap sequence ends in a run that begins at the uploaded PC, with RAM as the previous run left it under the
uploaded bytes, and with registers, ACC and C at any values (70_reset_and_hazards.md section 1; the spec's own decisions
D24 and D25; assumptions 13 and 31). Of several bytes uploaded to one address the last one is read (20_memory.md section
1). -/
def Obligations.BootstrapLaunches : Prop :=
  ∀ (s : State) upload entry start, s.testPin = false →
    s.hostMoves (bootstrap upload entry start) = some (s.launch upload entry start) ∧
    let t := s.launch upload entry start
    t.running ∧ t.pc = entry ∧ t.stack = [] ∧ t.out = [] ∧ t.regs = start.regs ∧ t.acc = start.acc ∧
    t.carry = start.carry ∧
    (∀ a, (∀ c ∈ upload, c.1 ≠ a) → t.readByte a = s.readByte a) ∧
    ∀ a v before after, upload = before ++ (a, v) :: after → (∀ c ∈ after, c.1 ≠ a) → t.readByte a = v

/-- While the test pin is low the host has no move but to raise it, and that move stops the run where it is; and every
move of the host keeps the invariant (20_memory.md section 9, 60_exceptions.md section 5; the spec's own decision D25;
assumption 13). -/
def Obligations.HostConfined : Prop :=
  (∀ (s : State) m t, s.testPin = false → s.hostMove m = some t →
    m = .raiseTestPin ∧ t = { s with testPin := true, uploadedPc := none }) ∧
  ∀ (s : State) m (t : State), s.inv → s.hostMove m = some t → t.inv

end
end

