-- ==== Sys2Proof/Laws/Decode.lean ====
section
/-! SUPPORT. The laws of the fields of an encoding: an address operand and its two bytes, the 4-bit field, and which
bytes have a row (spec rules R56, R91, R92, R94, R98). -/

namespace Sys2Proof

/-- `addr = byte1 + 256 * byte2` (R94). -/
theorem addrField_toNat (lo hi : Byte) : (addrField lo hi).toNat = lo.toNat + 256 * hi.toNat := by
  have e : (addrField lo hi).toNat = hi.toNat <<< 8 ||| lo.toNat := BitVec.toNat_append hi lo
  have h := lo.isLt
  rw [e, Nat.shiftLeft_eq, Nat.mul_comm, ← Nat.two_pow_add_eq_or_of_lt h]
  omega

theorem addrField_lo (lo hi : Byte) : (addrField lo hi).extractLsb' 0 8 = lo := by
  apply BitVec.eq_of_toNat_eq
  have h := lo.isLt
  rw [BitVec.extractLsb'_toNat, addrField_toNat, Nat.shiftRight_zero]
  omega

theorem addrField_hi (lo hi : Byte) : (addrField lo hi).extractLsb' 8 8 = hi := by
  apply BitVec.eq_of_toNat_eq
  have h := lo.isLt
  have h' := hi.isLt
  rw [BitVec.extractLsb'_toNat, addrField_toNat, Nat.shiftRight_eq_div_pow]
  omega

/-- The bytes of an assembled address are the bytes it was assembled from. -/
theorem addrBytes_addrField (lo hi : Byte) : addrBytes (addrField lo hi) = [lo, hi] := by
  rw [addrBytes, addrField_lo, addrField_hi]

/-- The address assembled from the bytes of an address is that address. -/
theorem addrField_addrBytes (a : Addr) : addrField (a.extractLsb' 0 8) (a.extractLsb' 8 8) = a := by
  apply BitVec.eq_of_toNat_eq
  have h := a.isLt
  rw [addrField_toNat, BitVec.extractLsb'_toNat, BitVec.extractLsb'_toNat, Nat.shiftRight_eq_div_pow]
  omega

/-- The 4-bit field of an opcode byte made with that field, for the three rows that have one (R84, R88). -/
theorem nibbleField_nibbleByte (d : Nibble) :
    nibbleField (nibbleByte 0x10 d) = d ∧ nibbleField (nibbleByte 0xC0 d) = d ∧ nibbleField (nibbleByte 0xD0 d) = d := by
  revert d; decide

/-- An opcode byte is rebuilt from its register field and the bits around it (R83, R91). -/
theorem regByte_regField (b : Byte) : regByte (b &&& 0xF1) (regField b) = b := by
  revert b; decide +kernel

/-- An opcode byte is rebuilt from its 4-bit field and the bits above it (R84, R88). -/
theorem nibbleByte_nibbleField (b : Byte) : nibbleByte (b &&& 0xF0) (nibbleField b) = b := by
  revert b; decide +kernel

/-- A row found for an opcode byte is a row of the map whose fixed bits the byte has (R96). -/
theorem findRow_some {b : Byte} {row : OpRow} (h : findRow b = some row) :
    row ∈ opTable ∧ b &&& row.mask = row.value :=
  ⟨List.mem_of_find?_eq_some h, by simpa [OpRow.matches] using List.find?_some h⟩

/-- A property of every value of the 4-bit field is one of the sixteen numbers. -/
theorem nibble_induction {P : Nibble → Prop} (h : ∀ n < 16, P (BitVec.ofNat 4 n)) (d : Nibble) : P d := by
  have := h d.toNat d.isLt
  rwa [BitVec.ofNat_toNat, BitVec.setWidth_eq] at this

/-- A property of every byte is one of the 256 numbers. -/
theorem byte_induction {P : Byte → Prop} (h : ∀ n < 256, P (BitVec.ofNat 8 n)) (b : Byte) : P b := by
  have := h b.toNat b.isLt
  rwa [BitVec.ofNat_toNat, BitVec.setWidth_eq] at this

/-- What the decoder of a list does, by the row of its first byte. -/
theorem decode_cons (b0 : Byte) (rest : List Byte) :
    decode (b0 :: rest) = match findRow b0 with
      | none => .error (.unassigned b0)
      | some row =>
        if rest.length + 1 < row.size then .error (.truncated b0)
        else .ok (row.build b0 (rest.getD 0 0) (rest.getD 1 0), rest.drop (row.size - 1)) := rfl

end Sys2Proof
end

