-- ==== Sys2Proof/Laws/Memory.lean ====
section
/-! SUPPORT. The laws of memory: a read after a write, that every memory operation keeps the canonical form, and that
the canonical form makes equal memories equal data. -/

namespace Sys2Proof.Machine

/-! ### Reading -/

theorem Memory.read_cons (a b : Nat) (v : Byte) (m : Memory) :
    Memory.read a ((b, v) :: m) = if a = b then v else Memory.read a m := rfl

/-- An address that no cell lists reads as an unlisted address does. -/
theorem Memory.read_unlisted {a : Nat} : ∀ {m : Memory}, (∀ c ∈ m, c.1 ≠ a) → Memory.read a m = unlistedByte
  | [], _ => rfl
  | (b, w) :: m, h => by
    rw [Memory.read_cons, if_neg fun hab => h (b, w) (by simp) hab.symm]
    exact Memory.read_unlisted fun c hc => h c (by simp [hc])

theorem Memory.erase_ne {a : Nat} {m : Memory} : ∀ c ∈ m.erase a, c.1 ≠ a := fun c hc => by
  simpa using (List.mem_filter.mp hc).2

theorem Memory.read_erase (a b : Nat) (m : Memory) :
    Memory.read b (m.erase a) = if b = a then unlistedByte else Memory.read b m := by
  split
  · next h => subst h; exact Memory.read_unlisted Memory.erase_ne
  · next h =>
    induction m with
    | nil => rfl
    | cons c m ih =>
      obtain ⟨d, w⟩ := c
      rw [Memory.read_cons, ← ih]
      by_cases hd : d = a
      · subst hd
        rw [if_neg h]
        simp [Memory.erase]
      · have : Memory.erase a ((d, w) :: m) = (d, w) :: Memory.erase a m := by simp [Memory.erase, hd]
        rw [this, Memory.read_cons]

theorem Memory.read_insert (a : Nat) (v : Byte) (b : Nat) :
    ∀ {m : Memory}, (∀ c ∈ m, c.1 ≠ a) → Memory.read b (m.insert a v) = if b = a then v else Memory.read b m
  | [], _ => rfl
  | (d, w) :: m, h => by
    have hd : d ≠ a := h (d, w) (by simp)
    unfold Memory.insert
    split
    · rfl
    · rw [Memory.read_cons, Memory.read_insert a v b fun c hc => h c (by simp [hc]), Memory.read_cons]
      by_cases hb : b = d
      · subst hb; rw [if_pos rfl, if_pos rfl, if_neg hd]
      · rw [if_neg hb, if_neg hb]

/-- A read after a write gives the value written at that address and the old value at every other. -/
theorem Memory.read_write (a : Nat) (v : Byte) (b : Nat) (m : Memory) :
    Memory.read b (m.write a v) = if b = a then v else Memory.read b m := by
  unfold Memory.write
  split
  · next h => rw [h]; exact Memory.read_erase a b m
  · rw [Memory.read_insert a v b Memory.erase_ne, Memory.read_erase]
    split <;> rfl

/-! ### The canonical form -/

theorem Memory.wf_erase {m : Memory} (h : m.wf) (a : Nat) : (m.erase a).wf :=
  ⟨h.1.filter _, fun c hc => h.2 c (List.mem_filter.mp hc).1⟩

theorem Memory.mem_insert {a : Nat} {v : Byte} {c : Host.Cell} :
    ∀ {m : Memory}, c ∈ m.insert a v → c = (a, v) ∨ c ∈ m
  | [], h => .inl (List.mem_singleton.mp h)
  | (d, w) :: m, h => by
    unfold Memory.insert at h
    split at h
    · exact List.mem_cons.mp h
    · rcases List.mem_cons.mp h with rfl | h
      · exact .inr (by simp)
      · exact (Memory.mem_insert h).imp_right (List.mem_cons_of_mem _)

theorem Memory.rising_insert {a : Nat} {v : Byte} :
    ∀ {m : Memory}, m.Pairwise (fun c d => c.1 < d.1) → (∀ c ∈ m, c.1 ≠ a) →
      (m.insert a v).Pairwise (fun c d => c.1 < d.1)
  | [], _, _ => List.pairwise_singleton _ _
  | (d, w) :: m, h, hne => by
    obtain ⟨hlt, htail⟩ := List.pairwise_cons.mp h
    have hd : d ≠ a := hne (d, w) (by simp)
    unfold Memory.insert
    split
    · next had =>
      refine List.pairwise_cons.mpr ⟨fun c hc => ?_, h⟩
      rcases List.mem_cons.mp hc with rfl | hc
      · exact had
      · exact Nat.lt_trans had (hlt c hc)
    · next had =>
      refine List.pairwise_cons.mpr ⟨fun c hc => ?_, Memory.rising_insert htail fun c hc => hne c (by simp [hc])⟩
      rcases Memory.mem_insert hc with rfl | hc
      · exact Nat.lt_of_le_of_ne (Nat.le_of_not_lt had) hd
      · exact hlt c hc

/-- A write keeps the canonical form. -/
theorem Memory.wf_write {a : Nat} (v : Byte) (ha : a < 65536) {m : Memory} (h : m.wf) : (m.write a v).wf := by
  unfold Memory.write
  split
  · exact Memory.wf_erase h a
  · next hv =>
    have he := Memory.wf_erase h a
    refine ⟨Memory.rising_insert he.1 Memory.erase_ne, fun c hc => ?_⟩
    rcases Memory.mem_insert hc with rfl | hc
    · exact ⟨hv, ha⟩
    · exact he.2 c hc

/-- Two canonical memories that read alike at every address are the same data. -/
theorem Memory.eq_of_read_eq : ∀ {m n : Memory}, m.wf → n.wf → (∀ a, Memory.read a m = Memory.read a n) → m = n
  | [], [], _, _, _ => rfl
  | [], (b, w) :: n, _, hn, h => by
    have := h b
    rw [Memory.read_cons, if_pos rfl] at this
    exact absurd this.symm (hn.2 (b, w) (by simp)).1
  | (b, w) :: m, [], hm, _, h => by
    have := h b
    rw [Memory.read_cons, if_pos rfl] at this
    exact absurd this (hm.2 (b, w) (by simp)).1
  | (b, v) :: m, (d, w) :: n, hm, hn, h => by
    obtain ⟨hml, hmt⟩ := List.pairwise_cons.mp hm.1
    obtain ⟨hnl, hnt⟩ := List.pairwise_cons.mp hn.1
    have below {x y : Nat} {l : Memory} (hxy : x ≤ y) (hl : ∀ c ∈ l, y < c.1) : Memory.read x l = unlistedByte :=
      Memory.read_unlisted fun c hc hcx => absurd (hl c hc) (by omega)
    have hb := h b
    have hd := h d
    simp only [Memory.read_cons, if_true] at hb hd
    have hbd : b = d := by
      rcases Nat.lt_trichotomy b d with hlt | heq | hgt
      · rw [if_neg (by omega), below (Nat.le_of_lt hlt) hnl] at hb
        exact absurd hb (hm.2 (b, v) (by simp)).1
      · exact heq
      · rw [if_neg (by omega), below (Nat.le_of_lt hgt) hml] at hd
        exact absurd hd.symm (hn.2 (d, w) (by simp)).1
    subst hbd
    rw [if_pos rfl] at hb
    have tails : m = n := by
      refine Memory.eq_of_read_eq ⟨hmt, fun c hc => hm.2 c (by simp [hc])⟩ ⟨hnt, fun c hc => hn.2 c (by simp [hc])⟩
        fun a => ?_
      by_cases hab : a = b
      · rw [hab, below (Nat.le_refl b) hml, below (Nat.le_refl b) hnl]
      · have := h a
        rwa [Memory.read_cons, Memory.read_cons, if_neg hab, if_neg hab] at this
    rw [hb, tails]

/-! ### The same, through the machine's read and write of a byte -/

theorem State.writeByte_readByte (s : State) (a : Addr) (v : Byte) (b : Addr) :
    (s.writeByte a v).readByte b = if b = a then v else s.readByte b := by
  refine (Memory.read_write a.toNat v b.toNat s.mem).trans ?_
  simp only [BitVec.toNat_inj]
  rfl

theorem State.writeByte_wf {s : State} (h : s.mem.wf) (a : Addr) (v : Byte) : (s.writeByte a v).mem.wf :=
  Memory.wf_write v a.isLt h

theorem State.placeBytes_wf : ∀ (vs : List Byte) {s : State} (_ : s.mem.wf) (a : Addr), (s.placeBytes a vs).mem.wf
  | [], _, h, _ => h
  | v :: vs, _, h, a => State.placeBytes_wf vs (State.writeByte_wf h a v) (a + 1)

theorem State.overlay_wf : ∀ (cs : List (Addr × Byte)) {s : State} (_ : s.mem.wf), (s.overlay cs).mem.wf
  | [], _, h => h
  | c :: cs, _, h => State.overlay_wf cs (State.writeByte_wf h c.1 c.2)

theorem State.reset_mem_wf : State.reset.mem.wf := by decide

end Sys2Proof.Machine
end

