-- ==== Sys2Proof/Laws/State.lean ====
section
/-! SUPPORT. What each named update of State leaves in each field: one lemma per field per update, and the same for
the derived readings of a register, a byte of RAM, an address after PC, and the draws. -/

namespace Sys2Proof.Machine

variable (s : State)

/-! ### setReg -/

@[simp] theorem State.setReg_regs (r : Reg) (v : Byte) : (s.setReg r v).regs = s.regs.set r v := rfl
@[simp] theorem State.setReg_acc (r : Reg) (v : Byte) : (s.setReg r v).acc = s.acc := rfl
@[simp] theorem State.setReg_carry (r : Reg) (v : Byte) : (s.setReg r v).carry = s.carry := rfl
@[simp] theorem State.setReg_pc (r : Reg) (v : Byte) : (s.setReg r v).pc = s.pc := rfl
@[simp] theorem State.setReg_stack (r : Reg) (v : Byte) : (s.setReg r v).stack = s.stack := rfl
@[simp] theorem State.setReg_mem (r : Reg) (v : Byte) : (s.setReg r v).mem = s.mem := rfl
@[simp] theorem State.setReg_halted (r : Reg) (v : Byte) : (s.setReg r v).halted = s.halted := rfl
@[simp] theorem State.setReg_out (r : Reg) (v : Byte) : (s.setReg r v).out = s.out := rfl
@[simp] theorem State.setReg_faultMark (r : Reg) (v : Byte) : (s.setReg r v).faultMark = s.faultMark := rfl
@[simp] theorem State.setReg_testPin (r : Reg) (v : Byte) : (s.setReg r v).testPin = s.testPin := rfl
@[simp] theorem State.setReg_loadPin (r : Reg) (v : Byte) : (s.setReg r v).loadPin = s.loadPin := rfl
@[simp] theorem State.setReg_uploadedPc (r : Reg) (v : Byte) : (s.setReg r v).uploadedPc = s.uploadedPc := rfl
@[simp] theorem State.setReg_kbiBlocks (r : Reg) (v : Byte) : (s.setReg r v).kbiBlocks = s.kbiBlocks := rfl
@[simp] theorem State.setReg_draws (r : Reg) (v : Byte) : (s.setReg r v).draws = s.draws := rfl
@[simp] theorem State.setReg_readByte (r : Reg) (v : Byte) (x : Addr) : (s.setReg r v).readByte x = s.readByte x := rfl
@[simp] theorem State.setReg_pcPlus (r : Reg) (v : Byte) (k : Nat) : (s.setReg r v).pcPlus k = s.pcPlus k := rfl
@[simp] theorem State.setReg_testDraw (r : Reg) (v : Byte) : (s.setReg r v).testDraw = s.testDraw := rfl
@[simp] theorem State.setReg_keyDraw (r : Reg) (v : Byte) : (s.setReg r v).keyDraw = s.keyDraw := rfl
@[simp] theorem State.setReg_portDraw (r : Reg) (v : Byte) (x : Byte) : (s.setReg r v).portDraw x = s.portDraw x := rfl
@[simp] theorem State.setReg_keyAwaited (r : Reg) (v : Byte) : (s.setReg r v).keyAwaited = s.keyAwaited := rfl

/-! ### setAcc -/

@[simp] theorem State.setAcc_regs (v : Byte) : (s.setAcc v).regs = s.regs := rfl
@[simp] theorem State.setAcc_acc (v : Byte) : (s.setAcc v).acc = v := rfl
@[simp] theorem State.setAcc_carry (v : Byte) : (s.setAcc v).carry = s.carry := rfl
@[simp] theorem State.setAcc_pc (v : Byte) : (s.setAcc v).pc = s.pc := rfl
@[simp] theorem State.setAcc_stack (v : Byte) : (s.setAcc v).stack = s.stack := rfl
@[simp] theorem State.setAcc_mem (v : Byte) : (s.setAcc v).mem = s.mem := rfl
@[simp] theorem State.setAcc_halted (v : Byte) : (s.setAcc v).halted = s.halted := rfl
@[simp] theorem State.setAcc_out (v : Byte) : (s.setAcc v).out = s.out := rfl
@[simp] theorem State.setAcc_faultMark (v : Byte) : (s.setAcc v).faultMark = s.faultMark := rfl
@[simp] theorem State.setAcc_testPin (v : Byte) : (s.setAcc v).testPin = s.testPin := rfl
@[simp] theorem State.setAcc_loadPin (v : Byte) : (s.setAcc v).loadPin = s.loadPin := rfl
@[simp] theorem State.setAcc_uploadedPc (v : Byte) : (s.setAcc v).uploadedPc = s.uploadedPc := rfl
@[simp] theorem State.setAcc_kbiBlocks (v : Byte) : (s.setAcc v).kbiBlocks = s.kbiBlocks := rfl
@[simp] theorem State.setAcc_draws (v : Byte) : (s.setAcc v).draws = s.draws := rfl
@[simp] theorem State.setAcc_reg (v : Byte) (q : Reg) : (s.setAcc v).reg q = s.reg q := rfl
@[simp] theorem State.setAcc_readByte (v : Byte) (x : Addr) : (s.setAcc v).readByte x = s.readByte x := rfl
@[simp] theorem State.setAcc_pcPlus (v : Byte) (k : Nat) : (s.setAcc v).pcPlus k = s.pcPlus k := rfl
@[simp] theorem State.setAcc_pointer (v : Byte) : (s.setAcc v).pointer = s.pointer := rfl
@[simp] theorem State.setAcc_testDraw (v : Byte) : (s.setAcc v).testDraw = s.testDraw := rfl
@[simp] theorem State.setAcc_keyDraw (v : Byte) : (s.setAcc v).keyDraw = s.keyDraw := rfl
@[simp] theorem State.setAcc_portDraw (v : Byte) (x : Byte) : (s.setAcc v).portDraw x = s.portDraw x := rfl
@[simp] theorem State.setAcc_keyAwaited (v : Byte) : (s.setAcc v).keyAwaited = s.keyAwaited := rfl

/-! ### setCarry -/

@[simp] theorem State.setCarry_regs (b : Bool) : (s.setCarry b).regs = s.regs := rfl
@[simp] theorem State.setCarry_acc (b : Bool) : (s.setCarry b).acc = s.acc := rfl
@[simp] theorem State.setCarry_carry (b : Bool) : (s.setCarry b).carry = b := rfl
@[simp] theorem State.setCarry_pc (b : Bool) : (s.setCarry b).pc = s.pc := rfl
@[simp] theorem State.setCarry_stack (b : Bool) : (s.setCarry b).stack = s.stack := rfl
@[simp] theorem State.setCarry_mem (b : Bool) : (s.setCarry b).mem = s.mem := rfl
@[simp] theorem State.setCarry_halted (b : Bool) : (s.setCarry b).halted = s.halted := rfl
@[simp] theorem State.setCarry_out (b : Bool) : (s.setCarry b).out = s.out := rfl
@[simp] theorem State.setCarry_faultMark (b : Bool) : (s.setCarry b).faultMark = s.faultMark := rfl
@[simp] theorem State.setCarry_testPin (b : Bool) : (s.setCarry b).testPin = s.testPin := rfl
@[simp] theorem State.setCarry_loadPin (b : Bool) : (s.setCarry b).loadPin = s.loadPin := rfl
@[simp] theorem State.setCarry_uploadedPc (b : Bool) : (s.setCarry b).uploadedPc = s.uploadedPc := rfl
@[simp] theorem State.setCarry_kbiBlocks (b : Bool) : (s.setCarry b).kbiBlocks = s.kbiBlocks := rfl
@[simp] theorem State.setCarry_draws (b : Bool) : (s.setCarry b).draws = s.draws := rfl
@[simp] theorem State.setCarry_reg (b : Bool) (q : Reg) : (s.setCarry b).reg q = s.reg q := rfl
@[simp] theorem State.setCarry_readByte (b : Bool) (x : Addr) : (s.setCarry b).readByte x = s.readByte x := rfl
@[simp] theorem State.setCarry_pcPlus (b : Bool) (k : Nat) : (s.setCarry b).pcPlus k = s.pcPlus k := rfl
@[simp] theorem State.setCarry_pointer (b : Bool) : (s.setCarry b).pointer = s.pointer := rfl
@[simp] theorem State.setCarry_testDraw (b : Bool) : (s.setCarry b).testDraw = s.testDraw := rfl
@[simp] theorem State.setCarry_keyDraw (b : Bool) : (s.setCarry b).keyDraw = s.keyDraw := rfl
@[simp] theorem State.setCarry_portDraw (b : Bool) (x : Byte) : (s.setCarry b).portDraw x = s.portDraw x := rfl
@[simp] theorem State.setCarry_keyAwaited (b : Bool) : (s.setCarry b).keyAwaited = s.keyAwaited := rfl

/-! ### setPc -/

@[simp] theorem State.setPc_regs (a : Addr) : (s.setPc a).regs = s.regs := rfl
@[simp] theorem State.setPc_acc (a : Addr) : (s.setPc a).acc = s.acc := rfl
@[simp] theorem State.setPc_carry (a : Addr) : (s.setPc a).carry = s.carry := rfl
@[simp] theorem State.setPc_pc (a : Addr) : (s.setPc a).pc = a := rfl
@[simp] theorem State.setPc_stack (a : Addr) : (s.setPc a).stack = s.stack := rfl
@[simp] theorem State.setPc_mem (a : Addr) : (s.setPc a).mem = s.mem := rfl
@[simp] theorem State.setPc_halted (a : Addr) : (s.setPc a).halted = s.halted := rfl
@[simp] theorem State.setPc_out (a : Addr) : (s.setPc a).out = s.out := rfl
@[simp] theorem State.setPc_faultMark (a : Addr) : (s.setPc a).faultMark = s.faultMark := rfl
@[simp] theorem State.setPc_testPin (a : Addr) : (s.setPc a).testPin = s.testPin := rfl
@[simp] theorem State.setPc_loadPin (a : Addr) : (s.setPc a).loadPin = s.loadPin := rfl
@[simp] theorem State.setPc_uploadedPc (a : Addr) : (s.setPc a).uploadedPc = s.uploadedPc := rfl
@[simp] theorem State.setPc_kbiBlocks (a : Addr) : (s.setPc a).kbiBlocks = s.kbiBlocks := rfl
@[simp] theorem State.setPc_draws (a : Addr) : (s.setPc a).draws = s.draws := rfl
@[simp] theorem State.setPc_reg (a : Addr) (q : Reg) : (s.setPc a).reg q = s.reg q := rfl
@[simp] theorem State.setPc_readByte (a : Addr) (x : Addr) : (s.setPc a).readByte x = s.readByte x := rfl
@[simp] theorem State.setPc_pointer (a : Addr) : (s.setPc a).pointer = s.pointer := rfl
@[simp] theorem State.setPc_testDraw (a : Addr) : (s.setPc a).testDraw = s.testDraw := rfl
@[simp] theorem State.setPc_keyDraw (a : Addr) : (s.setPc a).keyDraw = s.keyDraw := rfl
@[simp] theorem State.setPc_portDraw (a : Addr) (x : Byte) : (s.setPc a).portDraw x = s.portDraw x := rfl
@[simp] theorem State.setPc_keyAwaited (a : Addr) : (s.setPc a).keyAwaited = s.keyAwaited := rfl

/-! ### advance -/

@[simp] theorem State.advance_regs (n : Nat) : (s.advance n).regs = s.regs := rfl
@[simp] theorem State.advance_acc (n : Nat) : (s.advance n).acc = s.acc := rfl
@[simp] theorem State.advance_carry (n : Nat) : (s.advance n).carry = s.carry := rfl
@[simp] theorem State.advance_pc (n : Nat) : (s.advance n).pc = s.pcPlus n := rfl
@[simp] theorem State.advance_stack (n : Nat) : (s.advance n).stack = s.stack := rfl
@[simp] theorem State.advance_mem (n : Nat) : (s.advance n).mem = s.mem := rfl
@[simp] theorem State.advance_halted (n : Nat) : (s.advance n).halted = s.halted := rfl
@[simp] theorem State.advance_out (n : Nat) : (s.advance n).out = s.out := rfl
@[simp] theorem State.advance_faultMark (n : Nat) : (s.advance n).faultMark = s.faultMark := rfl
@[simp] theorem State.advance_testPin (n : Nat) : (s.advance n).testPin = s.testPin := rfl
@[simp] theorem State.advance_loadPin (n : Nat) : (s.advance n).loadPin = s.loadPin := rfl
@[simp] theorem State.advance_uploadedPc (n : Nat) : (s.advance n).uploadedPc = s.uploadedPc := rfl
@[simp] theorem State.advance_kbiBlocks (n : Nat) : (s.advance n).kbiBlocks = s.kbiBlocks := rfl
@[simp] theorem State.advance_draws (n : Nat) : (s.advance n).draws = s.draws := rfl
@[simp] theorem State.advance_reg (n : Nat) (q : Reg) : (s.advance n).reg q = s.reg q := rfl
@[simp] theorem State.advance_readByte (n : Nat) (x : Addr) : (s.advance n).readByte x = s.readByte x := rfl
@[simp] theorem State.advance_pointer (n : Nat) : (s.advance n).pointer = s.pointer := rfl
@[simp] theorem State.advance_testDraw (n : Nat) : (s.advance n).testDraw = s.testDraw := rfl
@[simp] theorem State.advance_keyDraw (n : Nat) : (s.advance n).keyDraw = s.keyDraw := rfl
@[simp] theorem State.advance_portDraw (n : Nat) (x : Byte) : (s.advance n).portDraw x = s.portDraw x := rfl
@[simp] theorem State.advance_keyAwaited (n : Nat) : (s.advance n).keyAwaited = s.keyAwaited := rfl

/-! ### halt -/

@[simp] theorem State.halt_regs : (s.halt).regs = s.regs := rfl
@[simp] theorem State.halt_acc : (s.halt).acc = s.acc := rfl
@[simp] theorem State.halt_carry : (s.halt).carry = s.carry := rfl
@[simp] theorem State.halt_pc : (s.halt).pc = s.pc := rfl
@[simp] theorem State.halt_stack : (s.halt).stack = s.stack := rfl
@[simp] theorem State.halt_mem : (s.halt).mem = s.mem := rfl
@[simp] theorem State.halt_halted : (s.halt).halted = true := rfl
@[simp] theorem State.halt_out : (s.halt).out = s.out := rfl
@[simp] theorem State.halt_faultMark : (s.halt).faultMark = s.faultMark := rfl
@[simp] theorem State.halt_testPin : (s.halt).testPin = s.testPin := rfl
@[simp] theorem State.halt_loadPin : (s.halt).loadPin = s.loadPin := rfl
@[simp] theorem State.halt_uploadedPc : (s.halt).uploadedPc = s.uploadedPc := rfl
@[simp] theorem State.halt_kbiBlocks : (s.halt).kbiBlocks = s.kbiBlocks := rfl
@[simp] theorem State.halt_draws : (s.halt).draws = s.draws := rfl
@[simp] theorem State.halt_reg (q : Reg) : (s.halt).reg q = s.reg q := rfl
@[simp] theorem State.halt_readByte (x : Addr) : (s.halt).readByte x = s.readByte x := rfl
@[simp] theorem State.halt_pcPlus (k : Nat) : (s.halt).pcPlus k = s.pcPlus k := rfl
@[simp] theorem State.halt_pointer : (s.halt).pointer = s.pointer := rfl
@[simp] theorem State.halt_testDraw : (s.halt).testDraw = s.testDraw := rfl
@[simp] theorem State.halt_keyDraw : (s.halt).keyDraw = s.keyDraw := rfl
@[simp] theorem State.halt_portDraw (x : Byte) : (s.halt).portDraw x = s.portDraw x := rfl
@[simp] theorem State.halt_keyAwaited : (s.halt).keyAwaited = s.keyAwaited := rfl

/-! ### writeByte -/

@[simp] theorem State.writeByte_regs (a : Addr) (v : Byte) : (s.writeByte a v).regs = s.regs := rfl
@[simp] theorem State.writeByte_acc (a : Addr) (v : Byte) : (s.writeByte a v).acc = s.acc := rfl
@[simp] theorem State.writeByte_carry (a : Addr) (v : Byte) : (s.writeByte a v).carry = s.carry := rfl
@[simp] theorem State.writeByte_pc (a : Addr) (v : Byte) : (s.writeByte a v).pc = s.pc := rfl
@[simp] theorem State.writeByte_stack (a : Addr) (v : Byte) : (s.writeByte a v).stack = s.stack := rfl
@[simp] theorem State.writeByte_mem (a : Addr) (v : Byte) : (s.writeByte a v).mem = s.mem.write a.toNat v := rfl
@[simp] theorem State.writeByte_halted (a : Addr) (v : Byte) : (s.writeByte a v).halted = s.halted := rfl
@[simp] theorem State.writeByte_out (a : Addr) (v : Byte) : (s.writeByte a v).out = s.out := rfl
@[simp] theorem State.writeByte_faultMark (a : Addr) (v : Byte) : (s.writeByte a v).faultMark = s.faultMark := rfl
@[simp] theorem State.writeByte_testPin (a : Addr) (v : Byte) : (s.writeByte a v).testPin = s.testPin := rfl
@[simp] theorem State.writeByte_loadPin (a : Addr) (v : Byte) : (s.writeByte a v).loadPin = s.loadPin := rfl
@[simp] theorem State.writeByte_uploadedPc (a : Addr) (v : Byte) : (s.writeByte a v).uploadedPc = s.uploadedPc := rfl
@[simp] theorem State.writeByte_kbiBlocks (a : Addr) (v : Byte) : (s.writeByte a v).kbiBlocks = s.kbiBlocks := rfl
@[simp] theorem State.writeByte_draws (a : Addr) (v : Byte) : (s.writeByte a v).draws = s.draws := rfl
@[simp] theorem State.writeByte_reg (a : Addr) (v : Byte) (q : Reg) : (s.writeByte a v).reg q = s.reg q := rfl
@[simp] theorem State.writeByte_pcPlus (a : Addr) (v : Byte) (k : Nat) : (s.writeByte a v).pcPlus k = s.pcPlus k := rfl
@[simp] theorem State.writeByte_pointer (a : Addr) (v : Byte) : (s.writeByte a v).pointer = s.pointer := rfl
@[simp] theorem State.writeByte_testDraw (a : Addr) (v : Byte) : (s.writeByte a v).testDraw = s.testDraw := rfl
@[simp] theorem State.writeByte_keyDraw (a : Addr) (v : Byte) : (s.writeByte a v).keyDraw = s.keyDraw := rfl
@[simp] theorem State.writeByte_portDraw (a : Addr) (v : Byte) (x : Byte) : (s.writeByte a v).portDraw x = s.portDraw x := rfl
@[simp] theorem State.writeByte_keyAwaited (a : Addr) (v : Byte) : (s.writeByte a v).keyAwaited = s.keyAwaited := rfl

/-! ### emit -/

@[simp] theorem State.emit_regs (e : OutEvent) : (s.emit e).regs = s.regs := rfl
@[simp] theorem State.emit_acc (e : OutEvent) : (s.emit e).acc = s.acc := rfl
@[simp] theorem State.emit_carry (e : OutEvent) : (s.emit e).carry = s.carry := rfl
@[simp] theorem State.emit_pc (e : OutEvent) : (s.emit e).pc = s.pc := rfl
@[simp] theorem State.emit_stack (e : OutEvent) : (s.emit e).stack = s.stack := rfl
@[simp] theorem State.emit_mem (e : OutEvent) : (s.emit e).mem = s.mem := rfl
@[simp] theorem State.emit_halted (e : OutEvent) : (s.emit e).halted = s.halted := rfl
@[simp] theorem State.emit_out (e : OutEvent) : (s.emit e).out = s.out ++ [e] := rfl
@[simp] theorem State.emit_faultMark (e : OutEvent) : (s.emit e).faultMark = s.faultMark := rfl
@[simp] theorem State.emit_testPin (e : OutEvent) : (s.emit e).testPin = s.testPin := rfl
@[simp] theorem State.emit_loadPin (e : OutEvent) : (s.emit e).loadPin = s.loadPin := rfl
@[simp] theorem State.emit_uploadedPc (e : OutEvent) : (s.emit e).uploadedPc = s.uploadedPc := rfl
@[simp] theorem State.emit_kbiBlocks (e : OutEvent) : (s.emit e).kbiBlocks = s.kbiBlocks := rfl
@[simp] theorem State.emit_draws (e : OutEvent) : (s.emit e).draws = s.draws := rfl
@[simp] theorem State.emit_reg (e : OutEvent) (q : Reg) : (s.emit e).reg q = s.reg q := rfl
@[simp] theorem State.emit_readByte (e : OutEvent) (x : Addr) : (s.emit e).readByte x = s.readByte x := rfl
@[simp] theorem State.emit_pcPlus (e : OutEvent) (k : Nat) : (s.emit e).pcPlus k = s.pcPlus k := rfl
@[simp] theorem State.emit_pointer (e : OutEvent) : (s.emit e).pointer = s.pointer := rfl
@[simp] theorem State.emit_testDraw (e : OutEvent) : (s.emit e).testDraw = s.testDraw := rfl
@[simp] theorem State.emit_keyDraw (e : OutEvent) : (s.emit e).keyDraw = s.keyDraw := rfl
@[simp] theorem State.emit_portDraw (e : OutEvent) (x : Byte) : (s.emit e).portDraw x = s.portDraw x := rfl
@[simp] theorem State.emit_keyAwaited (e : OutEvent) : (s.emit e).keyAwaited = s.keyAwaited := rfl

/-! ### drawn -/

@[simp] theorem State.drawn_regs : (s.drawn).regs = s.regs := rfl
@[simp] theorem State.drawn_acc : (s.drawn).acc = s.acc := rfl
@[simp] theorem State.drawn_carry : (s.drawn).carry = s.carry := rfl
@[simp] theorem State.drawn_pc : (s.drawn).pc = s.pc := rfl
@[simp] theorem State.drawn_stack : (s.drawn).stack = s.stack := rfl
@[simp] theorem State.drawn_mem : (s.drawn).mem = s.mem := rfl
@[simp] theorem State.drawn_halted : (s.drawn).halted = s.halted := rfl
@[simp] theorem State.drawn_out : (s.drawn).out = s.out := rfl
@[simp] theorem State.drawn_faultMark : (s.drawn).faultMark = s.faultMark := rfl
@[simp] theorem State.drawn_testPin : (s.drawn).testPin = s.testPin := rfl
@[simp] theorem State.drawn_loadPin : (s.drawn).loadPin = s.loadPin := rfl
@[simp] theorem State.drawn_uploadedPc : (s.drawn).uploadedPc = s.uploadedPc := rfl
@[simp] theorem State.drawn_kbiBlocks : (s.drawn).kbiBlocks = s.kbiBlocks := rfl
@[simp] theorem State.drawn_draws : (s.drawn).draws = s.draws + 1 := rfl
@[simp] theorem State.drawn_reg (q : Reg) : (s.drawn).reg q = s.reg q := rfl
@[simp] theorem State.drawn_readByte (x : Addr) : (s.drawn).readByte x = s.readByte x := rfl
@[simp] theorem State.drawn_pcPlus (k : Nat) : (s.drawn).pcPlus k = s.pcPlus k := rfl
@[simp] theorem State.drawn_pointer : (s.drawn).pointer = s.pointer := rfl

/-! ### marked -/

@[simp] theorem State.marked_regs (f : Fault) : (s.marked f).regs = s.regs := rfl
@[simp] theorem State.marked_acc (f : Fault) : (s.marked f).acc = s.acc := rfl
@[simp] theorem State.marked_carry (f : Fault) : (s.marked f).carry = s.carry := rfl
@[simp] theorem State.marked_pc (f : Fault) : (s.marked f).pc = s.pc := rfl
@[simp] theorem State.marked_stack (f : Fault) : (s.marked f).stack = s.stack := rfl
@[simp] theorem State.marked_mem (f : Fault) : (s.marked f).mem = s.mem := rfl
@[simp] theorem State.marked_halted (f : Fault) : (s.marked f).halted = s.halted := rfl
@[simp] theorem State.marked_out (f : Fault) : (s.marked f).out = s.out := rfl
@[simp] theorem State.marked_faultMark (f : Fault) : (s.marked f).faultMark = some f := rfl
@[simp] theorem State.marked_testPin (f : Fault) : (s.marked f).testPin = s.testPin := rfl
@[simp] theorem State.marked_loadPin (f : Fault) : (s.marked f).loadPin = s.loadPin := rfl
@[simp] theorem State.marked_uploadedPc (f : Fault) : (s.marked f).uploadedPc = s.uploadedPc := rfl
@[simp] theorem State.marked_kbiBlocks (f : Fault) : (s.marked f).kbiBlocks = s.kbiBlocks := rfl
@[simp] theorem State.marked_draws (f : Fault) : (s.marked f).draws = s.draws := rfl
@[simp] theorem State.marked_reg (f : Fault) (q : Reg) : (s.marked f).reg q = s.reg q := rfl
@[simp] theorem State.marked_readByte (f : Fault) (x : Addr) : (s.marked f).readByte x = s.readByte x := rfl
@[simp] theorem State.marked_pcPlus (f : Fault) (k : Nat) : (s.marked f).pcPlus k = s.pcPlus k := rfl
@[simp] theorem State.marked_pointer (f : Fault) : (s.marked f).pointer = s.pointer := rfl
@[simp] theorem State.marked_testDraw (f : Fault) : (s.marked f).testDraw = s.testDraw := rfl
@[simp] theorem State.marked_keyDraw (f : Fault) : (s.marked f).keyDraw = s.keyDraw := rfl
@[simp] theorem State.marked_portDraw (f : Fault) (x : Byte) : (s.marked f).portDraw x = s.portDraw x := rfl
@[simp] theorem State.marked_keyAwaited (f : Fault) : (s.marked f).keyAwaited = s.keyAwaited := rfl

/-! ### startRun -/

@[simp] theorem State.startRun_regs (e : Addr) (v : StartValues) : (s.startRun e v).regs = v.regs := rfl
@[simp] theorem State.startRun_acc (e : Addr) (v : StartValues) : (s.startRun e v).acc = v.acc := rfl
@[simp] theorem State.startRun_carry (e : Addr) (v : StartValues) : (s.startRun e v).carry = v.carry := rfl
@[simp] theorem State.startRun_pc (e : Addr) (v : StartValues) : (s.startRun e v).pc = e := rfl
@[simp] theorem State.startRun_stack (e : Addr) (v : StartValues) : (s.startRun e v).stack = [] := rfl
@[simp] theorem State.startRun_mem (e : Addr) (v : StartValues) : (s.startRun e v).mem = s.mem := rfl
@[simp] theorem State.startRun_halted (e : Addr) (v : StartValues) : (s.startRun e v).halted = false := rfl
@[simp] theorem State.startRun_out (e : Addr) (v : StartValues) : (s.startRun e v).out = [] := rfl
@[simp] theorem State.startRun_faultMark (e : Addr) (v : StartValues) : (s.startRun e v).faultMark = none := rfl
@[simp] theorem State.startRun_testPin (e : Addr) (v : StartValues) : (s.startRun e v).testPin = false := rfl
@[simp] theorem State.startRun_loadPin (e : Addr) (v : StartValues) : (s.startRun e v).loadPin = s.loadPin := rfl
@[simp] theorem State.startRun_uploadedPc (e : Addr) (v : StartValues) : (s.startRun e v).uploadedPc = none := rfl
@[simp] theorem State.startRun_kbiBlocks (e : Addr) (v : StartValues) : (s.startRun e v).kbiBlocks = s.kbiBlocks := rfl
@[simp] theorem State.startRun_draws (e : Addr) (v : StartValues) : (s.startRun e v).draws = s.draws := rfl
@[simp] theorem State.startRun_readByte (e : Addr) (v : StartValues) (x : Addr) : (s.startRun e v).readByte x = s.readByte x := rfl
@[simp] theorem State.startRun_testDraw (e : Addr) (v : StartValues) : (s.startRun e v).testDraw = s.testDraw := rfl
@[simp] theorem State.startRun_keyDraw (e : Addr) (v : StartValues) : (s.startRun e v).keyDraw = s.keyDraw := rfl
@[simp] theorem State.startRun_portDraw (e : Addr) (v : StartValues) (x : Byte) : (s.startRun e v).portDraw x = s.portDraw x := rfl
@[simp] theorem State.startRun_keyAwaited (e : Addr) (v : StartValues) : (s.startRun e v).keyAwaited = s.keyAwaited := rfl

end Sys2Proof.Machine
end

