-- ==== Sys2Proof/Laws/Ops.lean ====
section
/-! SUPPORT. One lemma for each shared operation that says what it does: the register file, the call stack, the
arithmetic that writes carry, and the rolls. -/

namespace Sys2Proof.Machine

/-! ### Registers -/

theorem RegFile.get_set (f : RegFile) (r : Reg) (v : Byte) (q : Reg) :
    (f.set r v).get q = if q = r then v else f.get q := by
  cases r <;> cases q <;> rfl

/-- Two register files that agree on every register are equal. -/
theorem RegFile.ext_get {f g : RegFile} (h : ∀ r, f.get r = g.get r) : f = g := by
  cases f; cases g
  simp only [RegFile.mk.injEq]
  exact ⟨h .r0, h .r1, h .r2, h .r3, h .r4, h .r5, h .r6, h .r7⟩

@[simp] theorem State.setReg_reg (s : State) (r : Reg) (v : Byte) (q : Reg) :
    (s.setReg r v).reg q = if q = r then v else s.reg q :=
  RegFile.get_set s.regs r v q

/-! ### The call stack -/

/-- All that a push can do (R32). -/
theorem State.push_spec (s : State) (v : Addr) :
    (s.stack.length < Config.stackDepth ∧ s.push v = .ok { s with stack := v :: s.stack }) ∨
    (Config.stackDepth ≤ s.stack.length ∧ s.push v = .error (.stackOverflow s.pc)) := by
  unfold State.push
  by_cases h : s.stack.length < Config.stackDepth
  · exact .inl ⟨h, if_pos h⟩
  · exact .inr ⟨Nat.le_of_not_lt h, if_neg h⟩

/-- All that a pop can do (R33). -/
theorem State.pop_spec (s : State) :
    (∃ v rest, s.stack = v :: rest ∧ s.pop = .ok (v, { s with stack := rest })) ∨
    (s.stack = [] ∧ s.pop = .error (.stackUnderflow s.pc)) := by
  unfold State.pop
  cases h : s.stack with
  | nil => exact .inr ⟨rfl, rfl⟩
  | cons v rest => exact .inl ⟨v, rest, rfl, rfl⟩

/-! ### Arithmetic -/

theorem sumByte_toNat (a b : Byte) (c : Bool) : (sumByte a b c).toNat = (a.toNat + b.toNat + c.toNat) % 256 := rfl

theorem sumCarry_iff (a b : Byte) (c : Bool) : sumCarry a b c = true ↔ 256 ≤ a.toNat + b.toNat + c.toNat :=
  decide_eq_true_iff

theorem diffBorrow_iff (a b : Byte) (c : Bool) : diffBorrow a b c = true ↔ a.toNat < b.toNat + c.toNat := by
  refine (decide_eq_true_iff (p := exactDiff a b c < 0)).trans ?_
  unfold exactDiff
  omega

theorem diffByte_toNat (a b : Byte) (c : Bool) :
    ((diffByte a b c).toNat : Int) = ((a.toNat : Int) - b.toNat - c.toNat) % 256 := by
  simp only [diffByte, exactDiff, BitVec.toNat_ofInt]
  omega

/-- Bit i of a roll to the left: the carry at the bottom, every other bit from one place below (R165). -/
theorem rollLeft_bit (a : Byte) (c : Bool) (i : Nat) :
    (rollLeft a c).getLsbD i = if i = 0 then c else decide (i < 8) && a.getLsbD (i - 1) := by
  unfold rollLeft
  rw [BitVec.getLsbD_append]
  rcases i with _ | i
  · simp
  · have h : (i + 1 < 8) = (i < 7) := propext (by omega)
    simp [h]

/-- Bit i of a roll to the right: the carry at the top, every other bit from one place above (R166). -/
theorem rollRight_bit (a : Byte) (c : Bool) (i : Nat) :
    (rollRight a c).getLsbD i = if i = 7 then c else decide (i < 7) && a.getLsbD (i + 1) := by
  unfold rollRight
  rw [BitVec.getLsbD_append]
  by_cases h : i < 7
  · rw [if_pos h, if_neg (by omega)]
    simp only [BitVec.getLsbD_extractLsb', Nat.add_comm 1 i]
  · rw [if_neg h]
    by_cases h7 : i = 7
    · subst h7; simp
    · rw [if_neg h7]
      simp [h, BitVec.getLsbD_of_ge _ _ (show 1 ≤ i - 7 by omega)]

/-! ### Combined updates -/

theorem State.addInto_eq (s : State) (r : Reg) (a b : Byte) (c : Bool) :
    s.addInto r a b c = (s.setReg r (sumByte a b c)).setCarry (sumCarry a b c) := rfl

theorem State.accStep_eq (s : State) (v : Byte) (c : Bool) :
    s.accStep v c = .next (((s.setAcc v).setCarry c).advance 1) := rfl

end Sys2Proof.Machine
end

