-- ==== Sys2Proof/Laws/PerInstr.lean ====
section
/-! SUPPORT. The family Sized: the encoding of an instruction has the length of its row, and its first byte alone gives
that length (spec rules R80, R81). One lemma per constructor of Instr. -/

namespace Sys2Proof.Laws

/-- The encoding has as many bytes as the instruction's row says, and byte 0 alone determines that number. -/
def Sized.Statement (i : Instr) : Prop :=
  (encode i).length = i.size ∧ ((encode i).head?.bind lengthOf) = some i.size

/-- Byte 0 of a row with a 4-bit field: every value of the field gives the same length. -/
theorem Sized.nibble_rows (d : Nibble) :
    lengthOf (nibbleByte 0x10 d) = some 3 ∧ lengthOf (nibbleByte 0xC0 d) = some 1 ∧
      lengthOf (nibbleByte 0xD0 d) = some 1 := by
  revert d; decide

theorem Sized.nop : Sized.Statement .nop := ⟨rfl, rfl⟩
theorem Sized.jcn (c : Nibble) (addr : Addr) : Sized.Statement (.jcn c addr) := ⟨rfl, (Sized.nibble_rows c).1⟩
theorem Sized.fim (r : Reg) (d : Byte) : Sized.Statement (.fim r d) := by cases r <;> exact ⟨rfl, rfl⟩
theorem Sized.zer (r : Reg) : Sized.Statement (.zer r) := by cases r <;> exact ⟨rfl, rfl⟩
theorem Sized.fin (r : Reg) : Sized.Statement (.fin r) := by cases r <;> exact ⟨rfl, rfl⟩
theorem Sized.ftc (r : Reg) (addr : Addr) : Sized.Statement (.ftc r addr) := by cases r <;> exact ⟨rfl, rfl⟩
theorem Sized.jun (addr : Addr) : Sized.Statement (.jun addr) := ⟨rfl, rfl⟩
theorem Sized.jms (addr : Addr) : Sized.Statement (.jms addr) := ⟨rfl, rfl⟩
theorem Sized.inc (r : Reg) : Sized.Statement (.inc r) := by cases r <;> exact ⟨rfl, rfl⟩
theorem Sized.ino (r : Reg) : Sized.Statement (.ino r) := by cases r <;> exact ⟨rfl, rfl⟩
theorem Sized.isz (r : Reg) (addr : Addr) : Sized.Statement (.isz r addr) := by cases r <;> exact ⟨rfl, rfl⟩
theorem Sized.sto (r : Reg) (addr : Addr) : Sized.Statement (.sto r addr) := by cases r <;> exact ⟨rfl, rfl⟩
theorem Sized.add (r : Reg) : Sized.Statement (.add r) := by cases r <;> exact ⟨rfl, rfl⟩
theorem Sized.xor (r : Reg) : Sized.Statement (.xor r) := by cases r <;> exact ⟨rfl, rfl⟩
theorem Sized.sub (r : Reg) : Sized.Statement (.sub r) := by cases r <;> exact ⟨rfl, rfl⟩
theorem Sized.sti (r : Reg) : Sized.Statement (.sti r) := by cases r <;> exact ⟨rfl, rfl⟩
theorem Sized.ld (r : Reg) : Sized.Statement (.ld r) := by cases r <;> exact ⟨rfl, rfl⟩
theorem Sized.xch (r : Reg) : Sized.Statement (.xch r) := by cases r <;> exact ⟨rfl, rfl⟩
theorem Sized.bbl (d : Nibble) : Sized.Statement (.bbl d) := ⟨rfl, (Sized.nibble_rows d).2.1⟩
theorem Sized.ldm (d : Nibble) : Sized.Statement (.ldm d) := ⟨rfl, (Sized.nibble_rows d).2.2⟩
theorem Sized.wmp (p : Byte) : Sized.Statement (.wmp p) := ⟨rfl, rfl⟩
theorem Sized.rdr (p : Byte) : Sized.Statement (.rdr p) := ⟨rfl, rfl⟩
theorem Sized.kbi : Sized.Statement .kbi := ⟨rfl, rfl⟩
theorem Sized.asc : Sized.Statement .asc := ⟨rfl, rfl⟩
theorem Sized.clb : Sized.Statement .clb := ⟨rfl, rfl⟩
theorem Sized.clc : Sized.Statement .clc := ⟨rfl, rfl⟩
theorem Sized.iac : Sized.Statement .iac := ⟨rfl, rfl⟩
theorem Sized.cmc : Sized.Statement .cmc := ⟨rfl, rfl⟩
theorem Sized.cma : Sized.Statement .cma := ⟨rfl, rfl⟩
theorem Sized.ral : Sized.Statement .ral := ⟨rfl, rfl⟩
theorem Sized.rar : Sized.Statement .rar := ⟨rfl, rfl⟩
theorem Sized.tcc : Sized.Statement .tcc := ⟨rfl, rfl⟩
theorem Sized.dac : Sized.Statement .dac := ⟨rfl, rfl⟩
theorem Sized.stc : Sized.Statement .stc := ⟨rfl, rfl⟩
theorem Sized.daa : Sized.Statement .daa := ⟨rfl, rfl⟩
theorem Sized.hlt : Sized.Statement .hlt := ⟨rfl, rfl⟩

end Sys2Proof.Laws
end

