-- ==== Sys2Proof/Laws/Step.lean ====
section
/-! SUPPORT. What a step and an instruction can do, said once: the cases of a step, and the two instructions whose
meaning can fault. -/

namespace Sys2Proof.Machine

/-- All that a step can do (R36, R99, R182). -/
theorem step_cases (s : State) :
    (∃ r, s.faultMark = some r ∧ step s = .fault r) ∨
    (s.faultMark = none ∧ s.executes = false ∧ step s = .next s) ∨
    (∃ i, s.running ∧ s.fetched = some i ∧ step s = exec i s) ∨
    (s.running ∧ s.fetched = none ∧ step s = .fault (.illegalOpcode (s.fetchByte 0) s.pc)) := by
  unfold step
  cases hm : s.faultMark with
  | some r => exact .inl ⟨r, rfl, rfl⟩
  | none =>
    cases he : s.executes with
    | false => exact .inr (.inl ⟨rfl, rfl, by simp⟩)
    | true =>
      have hr : s.running := by
        simp only [State.executes, Bool.and_eq_true, Bool.not_eq_true'] at he
        exact ⟨hm, he.1, he.2⟩
      cases hf : s.fetched with
      | some i => exact .inr (.inr (.inl ⟨i, hr, rfl, by simp⟩))
      | none => exact .inr (.inr (.inr ⟨hr, rfl, by simp [State.illegal, raise]⟩))

/-- A final state stays as it is (R36, R205). -/
theorem State.final_step {s : State} (h : s.final) : step s = .next s := by
  rcases step_cases s with ⟨r, hm, _⟩ | ⟨_, _, e⟩ | ⟨_, hr, _⟩ | ⟨hr, _⟩
  · simp [h.2] at hm
  · exact e
  · exact absurd (h.1.symm.trans hr.2.2) (by simp)
  · exact absurd (h.1.symm.trans hr.2.2) (by simp)

/-- All that JMS can do (R118). -/
theorem execJms_cases (a : Addr) (s : State) :
    (s.stack.length < Config.stackDepth ∧
      execJms a s = .next { s with stack := s.pcPlus 3 :: s.stack, pc := a }) ∨
    (Config.stackDepth ≤ s.stack.length ∧ execJms a s = .fault (.stackOverflow s.pc)) := by
  rcases s.push_spec (s.pcPlus 3) with ⟨h, e⟩ | ⟨h, e⟩
  · exact .inl ⟨h, by simp only [execJms, e]; rfl⟩
  · exact .inr ⟨h, by simp only [execJms, e]; rfl⟩

/-- All that BBL can do (R129). -/
theorem execBbl_cases (d : Nibble) (s : State) :
    (∃ v rest, s.stack = v :: rest ∧
      execBbl d s = .next { s with stack := rest, pc := v, acc := immediate d }) ∨
    (s.stack = [] ∧ execBbl d s = .fault (.stackUnderflow s.pc)) := by
  rcases s.pop_spec with ⟨v, rest, h, e⟩ | ⟨h, e⟩
  · exact .inl ⟨v, rest, h, by simp only [execBbl, e]; rfl⟩
  · exact .inr ⟨h, by simp only [execBbl, e]; rfl⟩

/-- What RAM reads as after three bytes are placed from an address on. -/
theorem State.placeBytes_three (s : State) (a : Addr) (u v w : Byte) (x : Addr) :
    (s.placeBytes a [u, v, w]).readByte x =
      if x = a + 1 + 1 then w else if x = a + 1 then v else if x = a then u else s.readByte x := by
  simp only [State.placeBytes, State.writeByte_readByte]

/-- A step with an instruction placed at PC runs that instruction. -/
theorem step_withFetchWord (s : State) (nbits w : Nat) {i : Instr} (h : decodeTableWord nbits w = some i) :
    step (s.withFetchWord nbits w) = exec i (s.withFetchWord nbits w) := by
  have bytes : ∃ u v x, tableBytes nbits w = [u, v, x] := ⟨_, _, _, rfl⟩
  obtain ⟨u, v, x, hb⟩ := bytes
  have hd : decodeWindow u v x = some i := by
    unfold decodeTableWord at h
    rw [hb] at h
    unfold decodeWindow
    simp only [decode] at h
    cases hf : findRow u with
    | none => simp [hf] at h
    | some row =>
      simp only [hf] at h
      split at h
      · next heq =>
        split at heq
        · cases heq
        · cases heq; simpa using h
      · cases h
  have hr (k : Addr) : (s.withFetchWord nbits w).readByte k = (s.placeBytes s.pc [u, v, x]).readByte k := by
    rw [← hb]; rfl
  have hpc : (s.withFetchWord nbits w).pc = s.pc := by
    show (s.placeBytes s.pc (tableBytes nbits w)).pc = s.pc
    rw [hb]; rfl
  have off (a : Addr) (m n : Nat) (hm : m < 65536) (hn : n < 65536) :
      a + BitVec.ofNat 16 m = a + BitVec.ofNat 16 n ↔ m = n := by
    constructor
    · intro e
      have := congrArg BitVec.toNat ((BitVec.add_right_inj a).mp e)
      simpa [BitVec.toNat_ofNat, Nat.mod_eq_of_lt, hm, hn] using this
    · rintro rfl; rfl
  have h0 : s.pc + BitVec.ofNat 16 0 = s.pc := by simp
  have h2 : s.pc + 1 + 1 = s.pc + BitVec.ofNat 16 2 := by rw [BitVec.add_assoc]; rfl
  have h1 : s.pc + 1 = s.pc + BitVec.ofNat 16 1 := rfl
  have hf : (s.withFetchWord nbits w).fetched = some i := by
    unfold State.fetched State.fetchByte State.pcPlus
    rw [hpc, hr, hr, hr, State.placeBytes_three, State.placeBytes_three, State.placeBytes_three, h2, h1]
    have e0 : (s.pc + BitVec.ofNat 16 0 = s.pc) := h0
    have e1 : ¬ (s.pc + BitVec.ofNat 16 1 = s.pc + BitVec.ofNat 16 2) := by rw [off] <;> omega
    have e2 : ¬ (s.pc + BitVec.ofNat 16 0 = s.pc + BitVec.ofNat 16 2) := by rw [off] <;> omega
    have e3 : ¬ (s.pc + BitVec.ofNat 16 0 = s.pc + BitVec.ofNat 16 1) := by rw [off] <;> omega
    rw [if_neg e2, if_neg e3, if_pos e0, if_neg e1, if_pos rfl, if_pos rfl]
    exact hd
  have hm : (s.withFetchWord nbits w).faultMark = none := rfl
  have he : (s.withFetchWord nbits w).executes = true := rfl
  unfold step
  rw [hm]
  simp only [he, hf, if_true]

end Sys2Proof.Machine
end

