-- ==== Sys2Proof/Machine/Timing.lean ====
section
/-! DEFINITION. The Cycles column of the source's tables, transcribed (spec rule R207). It is informational: the unit
is not defined, the model has no notion of time, and no step reads it (assumption 26). -/

namespace Sys2Proof.Machine

/-- The Cycles figure of an instruction (R207). -/
def cycles : Instr → Nat
  | .sto _ _ => 3
  | .jcn _ _ | .fim _ _ | .fin _ | .ftc _ _ | .jun _ | .jms _ | .isz _ _ => 2
  | .nop | .zer _ | .inc _ | .ino _ | .add _ | .xor _ | .sub _ | .sti _ | .ld _ | .xch _ => 1
  | .bbl _ | .ldm _ | .wmp _ | .rdr _ | .kbi | .asc | .clb | .clc | .iac | .cmc | .cma => 1
  | .ral | .rar | .tcc | .dac | .stc | .daa | .hlt => 1

end Sys2Proof.Machine
end

