-- ==== Sys2Proof/WellFormed.lean ====
section
/-! DEFINITION. Which written instructions are well-formed. A term of Instr always is: its operand types hold exactly
the values the encoding admits (spec rule R100). What can be ill-formed is a line of the spec's assembler notation
(R101), whose operands are plain numbers; the checks here turn a line into an instruction or refuse it. -/

namespace Sys2Proof

/-- One operand of a written line: `Rn`, or a number (R101). -/
inductive Operand where
  | reg (n : Nat)
  | num (n : Nat)
  deriving DecidableEq, Repr

/-- One written line: the mnemonic and its operands in order (R101). Number notation, comments and labels are text
and are gone at this point. -/
structure Line where
  mnemonic : String
  operands : List Operand
  deriving DecidableEq, Repr

/-- The register named by `Rn`, for n in 0 to 7 only (R21, R101). -/
def Reg.ofNumber : Nat → Option Reg
  | 0 => some .r0
  | 1 => some .r1
  | 2 => some .r2
  | 3 => some .r3
  | 4 => some .r4
  | 5 => some .r5
  | 6 => some .r6
  | 7 => some .r7
  | _ => none

/-- A number as an operand of w bits, refused where it does not fit. -/
def operandOf (w n : Nat) : Option (BitVec w) :=
  if n < 2 ^ w then some (BitVec.ofNat w n) else none

/-- The lines without an operand (R101). -/
def assembleImplied (m : String) : Option Instr :=
  if m = "NOP" then some .nop
  else if m = "KBI" then some .kbi
  else if m = "ASC" then some .asc
  else if m = "CLB" then some .clb
  else if m = "CLC" then some .clc
  else if m = "IAC" then some .iac
  else if m = "CMC" then some .cmc
  else if m = "CMA" then some .cma
  else if m = "RAL" then some .ral
  else if m = "RAR" then some .rar
  else if m = "TCC" then some .tcc
  else if m = "DAC" then some .dac
  else if m = "STC" then some .stc
  else if m = "DAA" then some .daa
  else if m = "HLT" then some .hlt
  else none

/-- The lines with one register operand (R101). -/
def assembleReg (m : String) (r : Reg) : Option Instr :=
  if m = "ZER" then some (.zer r)
  else if m = "FIN" then some (.fin r)
  else if m = "INC" then some (.inc r)
  else if m = "INO" then some (.ino r)
  else if m = "ADD" then some (.add r)
  else if m = "XOR" then some (.xor r)
  else if m = "SUB" then some (.sub r)
  else if m = "STI" then some (.sti r)
  else if m = "LD" then some (.ld r)
  else if m = "XCH" then some (.xch r)
  else none

/-- The lines with one number: an address, a 4-bit immediate or a port (R101). -/
def assembleNum (m : String) (n : Nat) : Option Instr :=
  if m = "JUN" then (operandOf 16 n).map .jun
  else if m = "JMS" then (operandOf 16 n).map .jms
  else if m = "BBL" then (operandOf 4 n).map .bbl
  else if m = "LDM" then (operandOf 4 n).map .ldm
  else if m = "WMP" then (operandOf 8 n).map .wmp
  else if m = "RDR" then (operandOf 8 n).map .rdr
  else none

/-- The lines with a register and a number (R101). -/
def assembleRegNum (m : String) (r : Reg) (n : Nat) : Option Instr :=
  if m = "FIM" then (operandOf 8 n).map (.fim r)
  else if m = "FTC" then (operandOf 16 n).map (.ftc r)
  else if m = "ISZ" then (operandOf 16 n).map (.isz r)
  else if m = "STO" then (operandOf 16 n).map (.sto r)
  else none

/-- The instruction a line stands for, or none where the mnemonic is unknown, the operands are not of its form, a
register number is above 7, or a number does not fit its field (R101; the notation is the spec's own decision D26). -/
def Line.assemble (l : Line) : Option Instr :=
  match l.operands with
  | [] => assembleImplied l.mnemonic
  | [.reg n] => (Reg.ofNumber n).bind (assembleReg l.mnemonic)
  | [.num n] => assembleNum l.mnemonic n
  | [.reg n, .num k] => (Reg.ofNumber n).bind fun r => assembleRegNum l.mnemonic r k
  | [.num c, .num a] =>
    if l.mnemonic = "JCN" then
      (operandOf 4 c).bind fun cond => (operandOf 16 a).map (.jcn cond)
    else none
  | _ => none

/-- A line is well-formed when it stands for an instruction. -/
def Line.wellFormed (l : Line) : Bool := l.assemble.isSome

end Sys2Proof
end

