-- ==== Sys2Proof/Tests/Slice0.lean ====
section
/-! SUPPORT. Tests. Every expected result is the spec's: the decoding vectors E1 to E38, the single-step vectors V1 to
V160 and the rules' own examples, in spec/95_test_vectors.md. -/

namespace Sys2Proof.Tests

open Sys2Proof.Machine

/-! ### Lines of the assembler notation: one accepted, and one refused for each check (R101) -/

theorem test_line_accepted : (Line.mk "FIM" [.reg 5, .num 0x4F]).assemble = some (.fim .r5 0x4F) := by decide
theorem test_line_jcn : (Line.mk "JCN" [.num 12, .num 0x1234]).assemble = some (.jcn 12 0x1234) := by decide
theorem test_line_unknown_mnemonic : (Line.mk "AND" [.reg 1]).wellFormed = false := by decide
theorem test_line_missing_operand : (Line.mk "INC" []).wellFormed = false := by decide
theorem test_line_wrong_form : (Line.mk "JUN" [.reg 1]).wellFormed = false := by decide
theorem test_line_register_out_of_range : (Line.mk "INC" [.reg 8]).wellFormed = false := by decide
theorem test_line_imm4_out_of_range : (Line.mk "LDM" [.num 16]).wellFormed = false := by decide
theorem test_line_byte_out_of_range : (Line.mk "WMP" [.num 256]).wellFormed = false := by decide
theorem test_line_immediate_out_of_range : (Line.mk "FIM" [.reg 0, .num 256]).wellFormed = false := by decide
theorem test_line_address_out_of_range : (Line.mk "STO" [.reg 0, .num 65536]).wellFormed = false := by decide
theorem test_line_condition_out_of_range : (Line.mk "JCN" [.num 16, .num 0]).wellFormed = false := by decide

/-! ### Decoding: one word for every constructor, written out in the spec (E1 to E38) -/

theorem test_decode_nop : decode [0x00] = .ok (.nop, []) := by decide
theorem test_decode_jcn : decode [0x1C, 0x34, 0x12] = .ok (.jcn 12 0x1234, []) := by decide
theorem test_decode_zer : decode [0x2B] = .ok (.zer .r5, []) := by decide
theorem test_decode_fim : decode [0x2A, 0x4F] = .ok (.fim .r5 0x4F, []) := by decide
theorem test_decode_fin : decode [0x3E] = .ok (.fin .r7, []) := by decide
theorem test_decode_ftc : decode [0x3F, 0xCD, 0xAB] = .ok (.ftc .r7 0xABCD, []) := by decide
theorem test_decode_jun : decode [0x40, 0xFF, 0xFF] = .ok (.jun 0xFFFF, []) := by decide
theorem test_decode_jms : decode [0x50, 0x00, 0x00] = .ok (.jms 0x0000, []) := by decide
theorem test_decode_inc : decode [0x6E] = .ok (.inc .r7, []) := by decide
theorem test_decode_ino : decode [0x6F] = .ok (.ino .r7, []) := by decide
theorem test_decode_isz : decode [0x70, 0x01, 0x00] = .ok (.isz .r0 0x0001, []) := by decide
theorem test_decode_sto : decode [0x7F, 0x00, 0x80] = .ok (.sto .r7 0x8000, []) := by decide
theorem test_decode_add : decode [0x80] = .ok (.add .r0, []) := by decide
theorem test_decode_xor : decode [0x8F] = .ok (.xor .r7, []) := by decide
theorem test_decode_sub : decode [0x9E] = .ok (.sub .r7, []) := by decide
theorem test_decode_sti : decode [0x91] = .ok (.sti .r0, []) := by decide
theorem test_decode_ld : decode [0xAE] = .ok (.ld .r7, []) := by decide
theorem test_decode_xch : decode [0xB0] = .ok (.xch .r0, []) := by decide
theorem test_decode_bbl : decode [0xCF] = .ok (.bbl 15, []) := by decide
theorem test_decode_ldm : decode [0xDA] = .ok (.ldm 10, []) := by decide
theorem test_decode_wmp : decode [0xE1, 0x80] = .ok (.wmp 128, []) := by decide
theorem test_decode_rdr : decode [0xEA, 0xFF] = .ok (.rdr 255, []) := by decide
theorem test_decode_kbi : decode [0xFC] = .ok (.kbi, []) := by decide
theorem test_decode_asc : decode [0xFD] = .ok (.asc, []) := by decide
theorem test_decode_clb : decode [0xF0] = .ok (.clb, []) := by decide
theorem test_decode_clc : decode [0xF1] = .ok (.clc, []) := by decide
theorem test_decode_iac : decode [0xF2] = .ok (.iac, []) := by decide
theorem test_decode_cmc : decode [0xF3] = .ok (.cmc, []) := by decide
theorem test_decode_cma : decode [0xF4] = .ok (.cma, []) := by decide
theorem test_decode_ral : decode [0xF5] = .ok (.ral, []) := by decide
theorem test_decode_rar : decode [0xF6] = .ok (.rar, []) := by decide
theorem test_decode_tcc : decode [0xF7] = .ok (.tcc, []) := by decide
theorem test_decode_dac : decode [0xF8] = .ok (.dac, []) := by decide
theorem test_decode_stc : decode [0xFA] = .ok (.stc, []) := by decide
theorem test_decode_daa : decode [0xFB] = .ok (.daa, []) := by decide
theorem test_decode_hlt : decode [0xFF] = .ok (.hlt, []) := by decide

theorem test_decode_no_bytes : decode [] = .error .noBytes := by decide
theorem test_decode_truncated : decode [0x40, 0x00] = .error (.truncated 0x40) := by decide
/-- V152: 0x41 is not a JUN. -/
theorem test_decode_unassigned : decode [0x41, 0x00, 0x80] = .error (.unassigned 0x41) := by decide
/-- The table's numbering: byte 0 is bits 7 to 0. -/
theorem test_table_word : decodeTableWord 24 0xABCD3F = some (.ftc .r7 0xABCD) := by decide
theorem test_table_word_short : decodeTableWord 8 0xABCD3F = some (.ftc .r7 0x0000) := by decide

/-! ### Single steps -/

/-- The default state before every vector of spec/95_test_vectors.md section 2.2. -/
def vec : State :=
  { State.reset with regs := ⟨0x10, 0x02, 0x22, 0x33, 0x44, 0x55, 0x66, 0x77⟩, acc := 0xA5, pc := 0x0100 }

/-- A reading of the state after one step with some bytes at PC, or none where the step stops. -/
def got {α : Type} (s : State) (bytes : List Byte) (f : State → α) : Option α :=
  match step (s.placeBytes s.pc bytes) with
  | .next t => some (f t)
  | .fault _ => none
  | .refused _ => none

/-- The fault that a step with some bytes at PC stops with. -/
def stopped (s : State) (bytes : List Byte) : Option Fault :=
  match step (s.placeBytes s.pc bytes) with
  | .next _ => none
  | .fault r => some r
  | .refused _ => none

/-- V2. -/
theorem test_nop_wraps : got { vec with pc := 0xFFFF } [0x00] (fun t => t.pc) = some 0x0000 := by decide
/-- V13. -/
theorem test_fim_straddles_top : got { vec with pc := 0xFFFF } [0x26, 0x80] (fun t => (t.reg .r3, t.pc)) = some (0x80, 0x0001) := by decide
/-- V15. -/
theorem test_zer_keeps_carry : got { vec with carry := true } [0x21] (fun t => (t.reg .r0, t.carry)) = some (0x00, true) := by decide
/-- V22. -/
theorem test_fin_uses_old_pointer : got (vec.writeByte 0x0210 0x99) [0x32] (fun t => (t.reg .r1, t.reg .r0)) = some (0x99, 0x10) := by decide
/-- V23. -/
theorem test_fin_reads_own_opcode : got ((vec.setReg .r0 0x00).setReg .r1 0x01) [0x3E] (fun t => t.reg .r7) = some 0x3E := by decide
/-- V25. -/
theorem test_ftc_reads_own_third_byte : got vec [0x31, 0x02, 0x01] (fun t => (t.reg .r0, t.pc)) = some (0x01, 0x0103) := by decide
/-- V26. -/
theorem test_ftc_straddles_top : got ({ vec with pc := 0xFFFE }.writeByte 0x1234 0x5C) [0x39, 0x34, 0x12] (fun t => (t.reg .r4, t.pc)) = some (0x5C, 0x0001) := by decide
/-- V30. -/
theorem test_jun_jumps : got { vec with pc := 0x0000 } [0x40, 0x00, 0x80] (fun t => t.pc) = some 0x8000 := by decide
/-- V33. -/
theorem test_jms_pushes_on_top : got { vec with stack := [0x0006, 0x0123] } [0x50, 0x00, 0x40] (fun t => (t.pc, t.stack)) = some (0x4000, [0x0103, 0x0006, 0x0123]) := by decide
/-- V34. -/
theorem test_jms_return_address_wraps : got { vec with pc := 0xFFFE } [0x50, 0x00, 0x02] (fun t => (t.pc, t.stack)) = some (0x0200, [0x0001]) := by decide
/-- V38. -/
theorem test_bbl_pops : got { vec with stack := [0x4003, 0x0006, 0x0123] } [0xC0] (fun t => (t.pc, t.acc, t.stack)) = some (0x4003, 0x00, [0x0006, 0x0123]) := by decide
/-- V39. -/
theorem test_bbl_code : got { vec with stack := [0x0000], acc := 0x00 } [0xCF] (fun t => (t.pc, t.acc)) = some (0x0000, 0x0F) := by decide
/-- V51. -/
theorem test_inc_wraps : got (vec.setReg .r3 0xFF) [0x66] (fun t => (t.reg .r3, t.carry)) = some (0x00, true) := by decide
/-- V52. -/
theorem test_inc_clears_stale_carry : got { vec.setReg .r3 0x05 with carry := true } [0x66] (fun t => (t.reg .r3, t.carry)) = some (0x06, false) := by decide
/-- V55. -/
theorem test_ino_adds_carry : got { vec with carry := true } [0x63] (fun t => (t.reg .r1, t.carry)) = some (0x03, false) := by decide
/-- V57. -/
theorem test_ino_without_carry : got (vec.setReg .r1 0xFF) [0x63] (fun t => (t.reg .r1, t.carry)) = some (0xFF, false) := by decide
/-- V62. -/
theorem test_isz_not_taken : got { vec.setReg .r0 0xFF with carry := true } [0x70, 0x00, 0x02] (fun t => (t.reg .r0, t.pc, t.carry)) = some (0x00, 0x0103, true) := by decide
/-- V61. -/
theorem test_isz_taken : got { vec.setReg .r4 0x00 with pc := 0x000A } [0x78, 0x06, 0x00] (fun t => (t.reg .r4, t.pc)) = some (0x01, 0x0006) := by decide
/-- V71. -/
theorem test_sto_at_top : got vec [0x7F, 0xFF, 0xFF] (fun t => (t.readByte 0xFFFF, t.pc)) = some (0x77, 0x0103) := by decide
/-- V73. -/
theorem test_sto_over_own_opcode : got vec [0x75, 0x00, 0x01] (fun t => (t.readByte 0x0100, t.readByte 0x0102)) = some (0x22, 0x01) := by decide
/-- V80. -/
theorem test_add_carry_out : got { vec.setReg .r2 0xF0 with acc := 0x20 } [0x84] (fun t => (t.reg .r2, t.carry, t.acc)) = some (0x10, true, 0x20) := by decide
/-- V82. -/
theorem test_add_largest : got { vec.setReg .r2 0xFF with acc := 0xFF, carry := true } [0x84] (fun t => (t.reg .r2, t.carry)) = some (0xFF, true) := by decide
/-- V88. -/
theorem test_xor_complements : got { vec.setReg .r7 0x5A with acc := 0xFF } [0x8F] (fun t => (t.reg .r7, t.acc)) = some (0xA5, 0xFF) := by decide
/-- V89. -/
theorem test_sub_borrows : got { vec.setReg .r5 0x05 with acc := 0x03 } [0x9A] (fun t => (t.reg .r5, t.carry, t.acc)) = some (0xFE, true, 0x03) := by decide
/-- V92. -/
theorem test_sub_least : got { vec.setReg .r5 0xFF with acc := 0x00, carry := true } [0x9A] (fun t => (t.reg .r5, t.carry)) = some (0x00, true) := by decide
/-- V76. -/
theorem test_sti_stores_pointer_byte : got vec [0x93] (fun t => (t.readByte 0x0210, t.pc)) = some (0x02, 0x0101) := by decide
/-- V100. -/
theorem test_ld_loads : got (vec.setReg .r5 0x4F) [0xAA] (fun t => (t.acc, t.reg .r5)) = some (0x4F, 0x4F) := by decide
/-- V103. -/
theorem test_xch_swaps : got vec [0xBE] (fun t => (t.acc, t.reg .r7)) = some (0x77, 0xA5) := by decide
/-- V104. -/
theorem test_ldm_clears_upper_bits : got { vec with acc := 0xFF } [0xD9] (fun t => t.acc) = some 0x09 := by decide
/-- V112. -/
theorem test_wmp_port_byte_wraps : got { vec with pc := 0xFFFF } [0xE1, 0x00] (fun t => (t.out, t.pc)) = some ([.port 0x00 0xA5], 0x0001) := by decide
/-- V118. -/
theorem test_asc_raw_byte : got { vec with acc := 0x80 } [0xFD] (fun t => (t.out, t.acc)) = some ([.vdu 0x80], 0x80) := by decide
/-- V120. -/
theorem test_clb_clears : got { vec with acc := 0xA7, carry := true } [0xF0] (fun t => (t.acc, t.carry)) = some (0x00, false) := by decide
/-- V121. -/
theorem test_clc_clears : got { vec with carry := true } [0xF1] (fun t => (t.acc, t.carry)) = some (0xA5, false) := by decide
/-- V123. -/
theorem test_iac_wraps : got { vec with acc := 0xFF } [0xF2] (fun t => (t.acc, t.carry)) = some (0x00, true) := by decide
/-- V124. -/
theorem test_iac_clears_stale_carry : got { vec with acc := 0x09, carry := true } [0xF2] (fun t => (t.acc, t.carry)) = some (0x0A, false) := by decide
/-- V126. -/
theorem test_cmc_inverts : got vec [0xF3] (fun t => (t.carry, t.acc)) = some (true, 0xA5) := by decide
/-- V128 and S1. -/
theorem test_cma_source_example : got { vec with acc := 0xFF } [0xF4] (fun t => t.acc) = some 0x00 := by decide
/-- V129. -/
theorem test_cma_keeps_carry : got { vec with acc := 0x5A, carry := true } [0xF4] (fun t => (t.acc, t.carry)) = some (0xA5, true) := by decide
/-- V131. -/
theorem test_ral_out : got { vec with acc := 0x81 } [0xF5] (fun t => (t.acc, t.carry)) = some (0x02, true) := by decide
/-- V132. -/
theorem test_ral_in : got { vec with acc := 0x40, carry := true } [0xF5] (fun t => (t.acc, t.carry)) = some (0x81, false) := by decide
/-- V135. -/
theorem test_rar_out : got { vec with acc := 0x01 } [0xF6] (fun t => (t.acc, t.carry)) = some (0x00, true) := by decide
/-- V136. -/
theorem test_rar_in : got { vec with acc := 0x02, carry := true } [0xF6] (fun t => (t.acc, t.carry)) = some (0x81, false) := by decide
/-- V139. -/
theorem test_tcc_transmits : got { vec with acc := 0xEE, carry := true } [0xF7] (fun t => (t.acc, t.carry)) = some (0x01, false) := by decide
/-- V141. -/
theorem test_dac_borrows : got { vec with acc := 0x00 } [0xF8] (fun t => (t.acc, t.carry)) = some (0xFF, true) := by decide
/-- V142. -/
theorem test_dac_clears_stale_carry : got { vec with acc := 0x10, carry := true } [0xF8] (fun t => (t.acc, t.carry)) = some (0x0F, false) := by decide
/-- V145. -/
theorem test_stc_sets : got vec [0xFA] (fun t => (t.carry, t.acc)) = some (true, 0xA5) := by decide
/-- V148. -/
theorem test_hlt_halts : got { vec with pc := 0x0010, carry := true } [0xFF] (fun t => (t.halted, t.pc, t.carry)) = some (true, 0x0011, true) := by decide
/-- R112 and the truth table of spec/95_test_vectors.md: with C1 C2 C3 C4 = 0110, C = 1 jumps. -/
theorem test_jcn_or : got { vec with carry := true } [0x16, 0x34, 0x12] (fun t => t.pc) = some 0x1234 := by decide
/-- R112 and the truth table: 1100 does not jump where ACC = 0. -/
theorem test_jcn_inverted : got { vec with acc := 0 } [0x1C, 0x34, 0x12] (fun t => t.pc) = some 0x0103 := by decide
/-- V113, with the environment's answer left free. -/
theorem test_rdr_draws : got vec [0xEA, 0x10] (fun t => (t.acc, t.draws, t.pc)) =
    some (Config.portIn 0x10 0, 1, 0x0102) := rfl
/-- V115, with the environment's answer left free. -/
theorem test_kbi_draws : got vec [0xFC] (fun t => (t.acc, t.draws, t.pc)) = some (Config.keyboard 0, 1, 0x0101) := rfl
/-- V147. -/
theorem test_daa_open : got vec [0xFB] (fun t => ((t.acc, t.carry), t.pc)) =
    some (Config.daaFn 0xA5 false, 0x0101) := rfl
/-- V35: the 128th entry is accepted. -/
theorem test_jms_last_entry : got { vec with stack := List.replicate 127 6 } [0x50, 0x00, 0x02]
    (fun t => (t.pc, t.stack.length, t.stack.head?)) = some (0x0200, 128, some 0x0103) := by decide +kernel
/-- V36. -/
theorem test_jms_overflow : stopped { vec with stack := List.replicate 128 6 } [0x50, 0x00, 0x02] =
    some (.stackOverflow 0x0100) := by decide +kernel
/-- V40. -/
theorem test_bbl_underflow : stopped vec [0xCF] = some (.stackUnderflow 0x0100) := by decide
/-- V157. -/
theorem test_illegal_opcode : stopped vec [0xE9] = some (.illegalOpcode 0xE9 0x0100) := by decide
/-- R36: a halted processor executes nothing. -/
theorem test_halted_stays : got { vec with halted := true } [0xF0] (fun t => (t.acc, t.pc)) = some (0xA5, 0x0100) := by
  decide
/-- R171 and R205: HLT ends in a final state, and a fault does not. -/
theorem test_final : (vec.placeBytes 0x0100 [0xFF]).afterStep.final ∧ ¬(vec.placeBytes 0x0100 [0xE9]).afterStep.final := by
  decide
/-- R182: the mark is set, and nothing else changes. -/
theorem test_fault_mark : ((vec.placeBytes 0x0100 [0xE9]).afterStep.faultMark, (vec.placeBytes 0x0100 [0xE9]).afterStep.pc) =
    (some (.illegalOpcode 0xE9 0x0100), 0x0100) := by decide
/-- Memory holds nothing that an unlisted address reads as. -/
theorem test_write_back_of_zero : ((vec.writeByte 5 7).writeByte 5 0).mem = [] := by decide

/-! ### Placing an instruction where the next step fetches it -/

theorem test_placed_add : (match step (State.reset.withFetchWord 8 0x84) with
    | .next t => some t.pc
    | .fault _ => none
    | .refused _ => none) = some 1 := by decide
theorem test_placed_jun : (match step (State.reset.withFetchWord 24 0x123440) with
    | .next t => some t.pc
    | .fault _ => none
    | .refused _ => none) = some 0x1234 := by decide

/-! ### The host: R200 -/

/-- A boot with one uploaded byte, from a halted processor. -/
theorem test_bootstrap : (({ vec with halted := true }.hostMoves
    (bootstrap [(0x0020, 0xFD)] 0x0020 ⟨⟨1, 2, 3, 4, 5, 6, 7, 8⟩, 9, true⟩)).map
      fun (t : State) => (t.pc, t.halted, t.readByte 0x0020, t.acc)) = some (0x0020, false, 0xFD, 9) := by decide
/-- R66: no upload while the processor runs. -/
theorem test_no_upload_while_running : vec.hostMove (.uploadByte 0 0) = none := by decide
/-- R201: no launch without an uploaded PC. -/
theorem test_no_release_without_pc : ({ vec with testPin := true }.hostMove (.releaseTestPin ⟨vec.regs, 0, false⟩)) = none := by
  decide

/-! ### Witnesses: for every statement with hypotheses, and for each of its clauses, a state that meets them -/

/-- JcnResult: both outcomes, with no test selected (0000) and inverted (1000). -/
theorem test_witness_jcn : jumpTaken 8 vec ∧ ¬jumpTaken 0 vec := by simp [jumpTaken]
/-- JmsResult: 127 entries, and 128. -/
theorem test_witness_jms : ({ vec with stack := List.replicate 127 6 } : State).stack.length < 128 ∧
    128 ≤ ({ vec with stack := List.replicate 128 6 } : State).stack.length := by simp
/-- IszResult: a register at 0xFE, and one at 0xFF. -/
theorem test_witness_isz : (vec.setReg .r4 0xFE).reg .r4 ≠ 0xFF ∧ (vec.setReg .r4 0xFF).reg .r4 = 0xFF := by decide
/-- BblResult: one entry, and none. -/
theorem test_witness_bbl : ({ vec with stack := [6] } : State).stack = 6 :: [] ∧ vec.stack = [] := by decide
/-- KbiResult and KbiMayWait: KBI_BLOCKS false, and true. What the environment offers is a free value. -/
theorem test_witness_kbi : vec.kbiBlocks = false ∧ ({ vec with kbiBlocks := true } : State).kbiBlocks = true := by decide
/-- CmaResult and RarResult: the bits at the ends of their ranges. -/
theorem test_witness_bits : (0 < 8 ∧ 7 < 8) ∧ (0 < 7 ∧ 6 < 7) := by decide
/-- RegisterWriters: ADD R2 leaves R3, and NOP leaves every register. -/
theorem test_witness_registers : (∃ t, exec (.add .r2) vec = .next t) ∧ regWritten (.add .r2) ≠ some .r3 ∧
    (∃ t, exec .nop vec = .next t) ∧ regWritten .nop ≠ some .r0 := ⟨⟨_, rfl⟩, by decide, ⟨_, rfl⟩, by decide⟩
/-- AccumulatorWriters. -/
theorem test_witness_accumulator : (∃ t, exec (.add .r2) vec = .next t) ∧ writesAcc (.add .r2) = false :=
  ⟨⟨_, rfl⟩, rfl⟩
/-- CarryAfterEach, StackOnlyByCalls, OutputHistory and HaltedUnread: a writer and HLT complete. -/
theorem test_witness_completes : (∃ t, exec (.inc .r0) vec = .next t) ∧ (∃ t, exec (.jms 0) vec = .next t) ∧
    (∃ t, exec (.wmp 1) vec = .next t) ∧ ∃ t, exec .hlt vec = .next t :=
  ⟨⟨_, rfl⟩, ⟨_, rfl⟩, ⟨_, rfl⟩, ⟨_, rfl⟩⟩
/-- StoresOnlyWhereNamed: the byte after a stored one, and any byte of an instruction that stores nothing. -/
theorem test_witness_stores : (∃ t, exec (.sto .r2 0x0300) vec = .next t) ∧
    storesTo vec (.sto .r2 0x0300) ≠ some 0x0301 ∧ storesTo vec (.sti .r2) ≠ some 0x0211 ∧
    storesTo vec (.ld .r2) ≠ some 0 := ⟨⟨_, rfl⟩, by decide, by decide, by decide⟩
/-- SequentialAdvance: an instruction that transfers no control, and a KBI that does not wait. -/
theorem test_witness_sequential : (∃ t, exec .nop vec = .next t) ∧ transfers .nop = false ∧
    (∃ t, exec .kbi vec = .next t) ∧ transfers .kbi = false ∧ vec.keyAwaited = false :=
  ⟨⟨_, rfl⟩, rfl, ⟨_, rfl⟩, rfl, rfl⟩
/-- EncodeOfDecode: three bytes and one left over. -/
theorem test_witness_decoded : decode [0x40, 0x34, 0x12, 0x00] = .ok (.jun 0x1234, [0x00]) := by decide
/-- LengthByOpcode and UnassignedOpcodes: the values at the ends of the ranges. -/
theorem test_witness_unassigned : unassignedByte 0x01 ∧ unassignedByte 0x0F ∧ unassignedByte 0xBF ∧
    unassignedByte 0xFE ∧ ¬unassignedByte 0x00 ∧ ¬unassignedByte 0x10 ∧ ¬unassignedByte 0xC0 ∧ ¬unassignedByte 0xFF := by
  simp [unassignedByte]
/-- StepRunsDecoded. -/
theorem test_witness_step : vec.running ∧
    decode [vec.readByte 0x0100, vec.readByte 0x0101, vec.readByte 0x0102] = .ok (.nop, [0, 0]) := by decide
/-- IllegalOpcodeFault. -/
theorem test_witness_illegal : (vec.writeByte 0x0100 0xE9).running ∧
    (vec.writeByte 0x0100 0xE9).readByte 0x0100 = 0xE9 ∧ unassignedByte 0xE9 :=
  ⟨by decide, by decide, by simp [unassignedByte]⟩
/-- StoppedStaysPut: HALTED, and the test pin. -/
theorem test_witness_stopped : vec.faultMark = none ∧ ({ vec with halted := true } : State).halted = true ∧
    ({ vec with testPin := true } : State).testPin = true := by decide
/-- FaultMarkFinal: a step that faults, and a marked state. -/
theorem test_witness_mark : step (vec.writeByte 0x0100 0xE9) = .fault (.illegalOpcode 0xE9 0x0100) ∧
    (vec.marked (.stackUnderflow 0)).faultMark = some (.stackUnderflow 0) := ⟨rfl, rfl⟩
/-- StepKeepsInvariant and the second clause of HostConfined: a state with a byte stored, a call open and the pin low. -/
theorem test_witness_inv : (({ vec with stack := [6] } : State).writeByte 0x0100 0xF0).inv ∧
    (∃ t, step (({ vec with stack := [6] } : State).writeByte 0x0100 0xF0) = .next t) ∧
    ∃ t, (({ vec with stack := [6] } : State).writeByte 0x0100 0xF0).hostMove .raiseTestPin = some t :=
  ⟨by decide +kernel, ⟨_, rfl⟩, ⟨_, rfl⟩⟩
/-- CallThenReturn and IncrementPair. -/
theorem test_witness_sequences : vec.stack.length < 128 ∧ Reg.r0 ≠ Reg.r1 := ⟨by simp [vec, State.reset], by decide⟩
/-- BootstrapLaunches: the pin low; an address that is not uploaded, and one uploaded last. -/
theorem test_witness_bootstrap : vec.testPin = false ∧ (∀ c ∈ [((0x20 : Addr), (0xFD : Byte))], c.1 ≠ 0x21) ∧
    [((0x20 : Addr), (0xFD : Byte))] = [] ++ (0x20, 0xFD) :: [] := ⟨rfl, by simp, rfl⟩
/-- HostConfined: the one move while the pin is low. -/
theorem test_witness_host : vec.testPin = false ∧ ∃ t, vec.hostMove .raiseTestPin = some t := ⟨rfl, ⟨_, rfl⟩⟩

end Sys2Proof.Tests
end

section
/-! PROOF. The opcode map read as ranges of byte 0: which bytes have a row, and how long the instructions of a row are
(spec rules R81 and R98). -/

namespace Sys2Proof

open Machine

/-! ### The fixed bits of a row, as arithmetic on byte 0 -/

theorem and_0xFF_eq_iff (b v : Byte) : b &&& 0xFF = v ↔ b.toNat = v.toNat := by
  rw [← BitVec.toNat_inj, show b &&& 0xFF = b from BitVec.and_allOnes]

/-- The mask of a row with a 4-bit field keeps the high nibble. -/
theorem and_0xF0_eq_iff (b v : Byte) : b &&& 0xF0 = v ↔ 16 * (b.toNat / 16) = v.toNat := by
  have keeps : ∀ b : Byte, (b &&& 0xF0).toNat = 16 * (b.toNat / 16) := by decide
  rw [← BitVec.toNat_inj, keeps]

/-- The mask of a row with a register field keeps the high nibble and bit 0. -/
theorem and_0xF1_eq_iff (b v : Byte) : b &&& 0xF1 = v ↔ 16 * (b.toNat / 16) + b.toNat % 2 = v.toNat := by
  have keeps : ∀ b : Byte, (b &&& 0xF1).toNat = 16 * (b.toNat / 16) + b.toNat % 2 := by decide
  rw [← BitVec.toNat_inj, keeps]

/-! ### The ranges of the opcode map -/

/-- The values of byte 0 that begin an instruction of three bytes (R81). -/
def threeByteOpcode (b : Byte) : Prop :=
  (0x10 ≤ b.toNat ∧ b.toNat ≤ 0x1F) ∨ (0x31 ≤ b.toNat ∧ b.toNat ≤ 0x3F ∧ b.toNat % 2 = 1) ∨
    b.toNat = 0x40 ∨ b.toNat = 0x50 ∨ (0x70 ≤ b.toNat ∧ b.toNat ≤ 0x7F)

/-- The values of byte 0 that begin an instruction of two bytes (R81). -/
def twoByteOpcode (b : Byte) : Prop :=
  (0x20 ≤ b.toNat ∧ b.toNat ≤ 0x2E ∧ b.toNat % 2 = 0) ∨ b.toNat = 0xE1 ∨ b.toNat = 0xEA

/-- The values of byte 0 that R81 and R98 leave to the rows of one size. -/
def opcodeOfSize (size : Nat) (b : Byte) : Prop :=
  ¬unassignedByte b ∧ (size = 3 ∧ threeByteOpcode b ∨ size = 2 ∧ ¬threeByteOpcode b ∧ twoByteOpcode b ∨
    size = 1 ∧ ¬threeByteOpcode b ∧ ¬twoByteOpcode b)

/-- Every row has its bytes in the ranges of its size, and the bytes that no row has are unassigned. Row by row, the
fixed bits say which range byte 0 lies in. -/
theorem opTable_ranges (b : Byte) :
    (∀ row ∈ opTable, b &&& row.mask = row.value → opcodeOfSize row.size b) ∧
      ((∀ row ∈ opTable, ¬b &&& row.mask = row.value) → unassignedByte b) := by
  have hb := b.isLt
  simp only [opTable, opTableMainA, opTableMainB, opTableIo, opTableAcc, List.cons_append, List.nil_append,
    List.forall_mem_cons, OpRow.implied, OpRow.reg, OpRow.imm4, OpRow.port, OpRow.addr, OpRow.regAddr,
    and_0xFF_eq_iff, and_0xF0_eq_iff, and_0xF1_eq_iff, BitVec.reduceToNat, List.not_mem_nil,
    opcodeOfSize, unassignedByte, threeByteOpcode, twoByteOpcode, true_and, false_imp_iff, implies_true, and_true]
  constructor
  · and_intros <;> intro <;> omega
  · grind

/-- The rows leave out exactly the unassigned bytes (R98). -/
theorem findRow_eq_none_iff (b : Byte) : findRow b = none ↔ unassignedByte b := by
  constructor
  · intro h
    refine (opTable_ranges b).2 fun row hrow => ?_
    simpa [OpRow.matches] using List.find?_eq_none.mp h row hrow
  · intro hb
    refine Option.eq_none_iff_forall_ne_some.mpr fun row h => ?_
    obtain ⟨hrow, hbits⟩ := findRow_some h
    exact ((opTable_ranges b).1 row hrow hbits).1 hb

/-- The decoder rejects a byte 0 as unassigned exactly where it has no row, whatever bytes follow. -/
theorem decode_eq_unassigned_iff (b : Byte) (rest : List Byte) :
    decode (b :: rest) = .error (.unassigned b) ↔ findRow b = none := by
  rw [decode_cons]
  cases findRow b with
  | none => simp
  | some row => dsimp only; split <;> simp

/-- The count of R98, taken over all 256 bytes. -/
theorem card_findRow_isNone : (Finset.univ.filter fun b : Byte => (findRow b).isNone).card = 77 := by
  decide

/-! ### The obligations -/

/-- Settles O46: by `findRow_eq_none_iff`, and the list is that of the bytes without a row. -/
theorem unassignedOpcodes : Obligations.UnassignedOpcodes := by
  constructor
  · intro b rest
    rw [decode_eq_unassigned_iff, findRow_eq_none_iff]
  · refine ⟨(Finset.univ.filter fun b => (findRow b).isNone).toList, ?_, Finset.nodup_toList _, fun b => ?_⟩
    · rw [Finset.length_toList, card_findRow_isNone]
    · simp [findRow_eq_none_iff]

/-- Settles O45: a byte without a row is unassigned, and the row of any other byte has the size of its range. -/
theorem lengthByOpcode : Obligations.LengthByOpcode := by
  intro b
  constructor
  · intro hb
    rw [lengthOf, (findRow_eq_none_iff b).mpr hb, Option.map_none]
  · intro hb
    obtain ⟨row, h⟩ := Option.ne_none_iff_exists'.mp (mt (findRow_eq_none_iff b).mp hb)
    obtain ⟨hrow, hbits⟩ := findRow_some h
    obtain ⟨-, hranges⟩ := (opTable_ranges b).1 row hrow hbits
    rw [lengthOf, h, Option.map_some]
    obtain ⟨hsize, h3⟩ | ⟨hsize, h3, h2⟩ | ⟨hsize, h3, h2⟩ := hranges
    · exact congrArg some (hsize.trans (if_pos h3).symm)
    · exact congrArg some (hsize.trans ((if_neg h3).trans (if_pos h2)).symm)
    · exact congrArg some (hsize.trans ((if_neg h3).trans (if_neg h2)).symm)

end Sys2Proof
end

section
/-! PROOF. The decoder, row by row: the rows of the opcode map are disjoint, so the fixed bits of a row single it out,
and its format says how operands are read from the bytes (spec rules R82 to R89, R91, R94, R96). -/

namespace Sys2Proof

/-! ### A byte with the fixed bits of a row is decoded by that row -/

/-- Any two rows differ in a bit that both of them fix. -/
theorem opTable_disjoint : opTable.Pairwise fun x y => x.value &&& y.mask ≠ y.value &&& x.mask := by decide

theorem findRow_eq_some {b : Byte} {row : OpRow} (hrow : row ∈ opTable) (hbits : b &&& row.mask = row.value) :
    findRow b = some row := by
  have hsome : (findRow b).isSome := List.find?_isSome.mpr ⟨row, hrow, by simpa [OpRow.matches] using hbits⟩
  obtain ⟨found, hfound⟩ := Option.isSome_iff_exists.mp hsome
  obtain ⟨hmem, hfoundBits⟩ := findRow_some hfound
  suffices found = row from this ▸ hfound
  have symm : Std.Symm fun x y : OpRow => x.value &&& y.mask ≠ y.value &&& x.mask := ⟨fun _ _ h => h.symm⟩
  by_contra hne
  refine opTable_disjoint.forall hmem hrow hne ?_
  rw [← hbits, ← hfoundBits, BitVec.and_assoc, BitVec.and_assoc, BitVec.and_comm found.mask]

/-- Where byte 0 has the fixed bits of a row and the operand bytes are there, the decoder answers what that row
builds. -/
theorem decode_of_row {b0 : Byte} {row : OpRow} {rest : List Byte} {i : Instr} (hrow : row ∈ opTable)
    (hbits : b0 &&& row.mask = row.value) (hlen : row.size ≤ rest.length + 1)
    (hbuild : row.build b0 (rest.getD 0 0) (rest.getD 1 0) = i) :
    decode (b0 :: rest) = .ok (i, rest.drop (row.size - 1)) := by
  rw [decode_cons, findRow_eq_some hrow hbits, ← hbuild]
  exact if_neg (Nat.not_lt.mpr hlen)

/-! ### Byte 0 of a row with a register field -/

theorem Reg.index_lt (r : Reg) : r.index < 8 := by cases r <;> decide

theorem regField_of_index {b : Byte} {r : Reg} (h : b.toNat / 2 % 8 = r.index) : regField b = r := by
  unfold regField
  rw [h]
  cases r <;> rfl

/-- RRR is what stands above bit 0 where the fixed bits leave room for it (R91). -/
theorem regField_add_index {base : Nat} (hbase : base % 16 < 2) (r : Reg) :
    regField (BitVec.ofNat 8 (base + 2 * r.index)) = r := by
  have hr := r.index_lt
  refine regField_of_index ?_
  rw [BitVec.toNat_ofNat]
  omega

/-- The register field changes none of the bits that a row with such a field fixes. -/
theorem add_index_and_0xF1 {base : Nat} (hbase : base % 16 < 2) (r : Reg) :
    BitVec.ofNat 8 (base + 2 * r.index) &&& 0xF1 = BitVec.ofNat 8 base := by
  have hr := r.index_lt
  rw [and_0xF1_eq_iff, BitVec.toNat_ofNat, BitVec.toNat_ofNat]
  omega

/-! ### Decoding by format -/

/-- Format IMPLIED (R82). -/
theorem decode_implied {m : String} {v : Byte} {i : Instr} (hrow : .implied m v i ∈ opTable) (rest : List Byte) :
    decode (v :: rest) = .ok (i, rest) :=
  decode_of_row hrow (BitVec.and_allOnes (x := v)) (Nat.le_add_left 1 rest.length) rfl

/-- Format ADDR (R87). -/
theorem decode_addr {m : String} {v : Byte} {mk : Addr → Instr} (hrow : .addr m v mk ∈ opTable) (lo hi : Byte)
    (rest : List Byte) : decode (v :: lo :: hi :: rest) = .ok (mk (hi ++ lo), rest) :=
  decode_of_row hrow (BitVec.and_allOnes (x := v)) (Nat.le_add_left 3 rest.length) rfl

/-- Format REG (R83). -/
theorem decode_reg {m : String} {base : Nat} {mk : Reg → Instr} (hrow : .reg m (BitVec.ofNat 8 base) mk ∈ opTable)
    (hbase : base % 16 < 2) (r : Reg) (rest : List Byte) :
    decode (BitVec.ofNat 8 (base + 2 * r.index) :: rest) = .ok (mk r, rest) :=
  decode_of_row hrow (add_index_and_0xF1 hbase r) (Nat.le_add_left 1 rest.length)
    (congrArg mk (regField_add_index hbase r))

/-- Format REG_ADDR (R89). -/
theorem decode_regAddr {m : String} {base : Nat} {mk : Reg → Addr → Instr}
    (hrow : .regAddr m (BitVec.ofNat 8 base) mk ∈ opTable) (hbase : base % 16 < 2) (r : Reg) (lo hi : Byte)
    (rest : List Byte) :
    decode (BitVec.ofNat 8 (base + 2 * r.index) :: lo :: hi :: rest) = .ok (mk r (hi ++ lo), rest) :=
  decode_of_row hrow (add_index_and_0xF1 hbase r) (Nat.le_add_left 3 rest.length)
    (congrArg (mk · (hi ++ lo)) (regField_add_index hbase r))

/-- Format REG_IMM8, which only FIM has (R85). -/
theorem decode_fim (r : Reg) (d : Byte) (rest : List Byte) :
    decode (BitVec.ofNat 8 (0x20 + 2 * r.index) :: d :: rest) = .ok (.fim r d, rest) := by
  have hrow : ⟨"FIM", 0x20, 0xF1, 2, fun b0 b1 _ => .fim (regField b0) b1⟩ ∈ opTable := by
    simp [opTable, opTableMainA]
  exact decode_of_row hrow (add_index_and_0xF1 (by decide) r) (Nat.le_add_left 2 rest.length)
    (congrArg (Instr.fim · d) (regField_add_index (by decide) r))

end Sys2Proof
end

section
/-! PROOF. The frame of an instruction: which updates keep a state within a list of changes, and the two endings that
several of the basic instructions share (spec rules R110, R113 to R117, R121, R122, R126 to R128). -/

namespace Sys2Proof.Machine

/-! ### Updates within a list of changes -/

theorem OnlyChanges.refl (ch : List Item) (s : State) : OnlyChanges ch s s := by simp [OnlyChanges]

/-- PC is in no list of changes, so setting it stays within every one. -/
theorem OnlyChanges.setPc {ch : List Item} {s t : State} (h : OnlyChanges ch s t) (a : Addr) :
    OnlyChanges ch s (t.setPc a) := h

theorem OnlyChanges.setReg {ch : List Item} {s t : State} (h : OnlyChanges ch s t) {r : Reg}
    (hr : Item.reg r ∈ ch) (v : Byte) : OnlyChanges ch s (t.setReg r v) := by
  obtain ⟨hregs, hrest⟩ := h
  refine ⟨fun q hq => ?_, hrest⟩
  have hqr : q ≠ r := by rintro rfl; exact hq hr
  rw [State.setReg_reg, if_neg hqr, hregs q hq]

theorem OnlyChanges.setAcc {ch : List Item} {s t : State} (h : OnlyChanges ch s t) (hacc : Item.acc ∈ ch) (v : Byte) :
    OnlyChanges ch s (t.setAcc v) := by
  obtain ⟨hregs, -, hrest⟩ := h
  exact ⟨hregs, (absurd hacc ·), hrest⟩

theorem OnlyChanges.writeByte {ch : List Item} {s t : State} (h : OnlyChanges ch s t) {a : Addr}
    (ha : Item.mem a ∈ ch) (v : Byte) : OnlyChanges ch s (t.writeByte a v) := by
  obtain ⟨hregs, hacc, hcarry, hstack, hbytes, hrest⟩ := h
  refine ⟨hregs, hacc, hcarry, hstack, fun b hb => ?_, hrest⟩
  have hba : b ≠ a := by rintro rfl; exact hb ha
  rw [State.writeByte_readByte, if_neg hba, hbytes b hb]

/-! ### One register or one byte of RAM written, then PC -/

/-- An instruction that writes one register and moves PC (FIM, ZER, FIN, FTC, ISZ). -/
theorem State.setReg_setPc_result (s : State) (r : Reg) (v : Byte) (a : Addr) :
    ((s.setReg r v).setPc a).reg r = v ∧ ((s.setReg r v).setPc a).pc = a ∧
      OnlyChanges [.reg r] s ((s.setReg r v).setPc a) :=
  ⟨by simp, rfl, ((OnlyChanges.refl _ s).setReg List.mem_cons_self v).setPc a⟩

/-- An instruction that stores one byte and moves PC (STO, STI). -/
theorem State.writeByte_setPc_result (s : State) (x : Addr) (v : Byte) (a : Addr) :
    ((s.writeByte x v).setPc a).readByte x = v ∧ ((s.writeByte x v).setPc a).pc = a ∧
      OnlyChanges [.mem x] s ((s.writeByte x v).setPc a) :=
  ⟨by simp [State.writeByte_readByte], rfl, ((OnlyChanges.refl _ s).writeByte List.mem_cons_self v).setPc a⟩

/-- The test of ISZ in terms of the register before it (R121). -/
theorem sumByte_one_eq_zero_iff (v : Byte) : sumByte v 1 false = 0 ↔ v = 0xFF := by
  rw [← BitVec.toNat_inj, ← BitVec.toNat_inj, sumByte_toNat]
  have h := v.isLt
  simp only [BitVec.reduceToNat, Bool.toNat_false]
  omega

end Sys2Proof.Machine
end

section
/-! PROOF. The obligations of spec/40_basic_instructions.md. The decoding is by the format of the row, the result by what
the written register or byte reads as, and the frame by the updates the meaning is made of. -/

namespace Sys2Proof

open Machine

/-- Settles O1. -/
theorem nopResult : Obligations.NopResult :=
  ⟨decode_implied (m := "NOP") (by simp [opTable, opTableMainA]),
    fun s => ⟨_, rfl, rfl, (OnlyChanges.refl [] s).setPc _⟩⟩

/-- Settles O2. -/
theorem fimResult : Obligations.FimResult :=
  ⟨decode_fim, fun r d s => ⟨_, rfl, s.setReg_setPc_result r d (s.pc + 2)⟩⟩

/-- Settles O3. -/
theorem zerResult : Obligations.ZerResult :=
  ⟨decode_reg (m := "ZER") (by simp [opTable, opTableMainA]) (by decide),
    fun r s => ⟨_, rfl, s.setReg_setPc_result r 0x00 (s.pc + 1)⟩⟩

/-- Settles O4: the byte read is that at the pointer of the old state, whatever register receives it. -/
theorem finResult : Obligations.FinResult :=
  ⟨decode_reg (m := "FIN") (by simp [opTable, opTableMainA]) (by decide),
    fun r s => ⟨_, rfl, s.setReg_setPc_result r (s.readByte s.pointer) (s.pc + 1)⟩⟩

/-- Settles O5. -/
theorem ftcResult : Obligations.FtcResult :=
  ⟨decode_regAddr (m := "FTC") (by simp [opTable, opTableMainA]) (by decide),
    fun r a s => ⟨_, rfl, s.setReg_setPc_result r (s.readByte a) (s.pc + 3)⟩⟩

/-- Settles O6. -/
theorem stoResult : Obligations.StoResult :=
  ⟨decode_regAddr (m := "STO") (by simp [opTable, opTableMainA]) (by decide),
    fun r a s => ⟨_, rfl, s.writeByte_setPc_result a (s.reg r) (s.pc + 3)⟩⟩

/-- Settles O7: the byte stored is the register of the old state, also where it is part of the pointer. -/
theorem stiResult : Obligations.StiResult :=
  ⟨decode_reg (m := "STI") (by simp [opTable, opTableMainB]) (by decide),
    fun r s => ⟨_, rfl, s.writeByte_setPc_result s.pointer (s.reg r) (s.pc + 1)⟩⟩

/-- Settles O8. -/
theorem ldResult : Obligations.LdResult :=
  ⟨decode_reg (m := "LD") (by simp [opTable, opTableMainB]) (by decide),
    fun r s => ⟨_, rfl, rfl, rfl, ((OnlyChanges.refl [.acc] s).setAcc List.mem_cons_self _).setPc _⟩⟩

/-- Settles O9: the register is written first, and the accumulator then receives the register of the old state. -/
theorem xchResult : Obligations.XchResult := by
  refine ⟨decode_reg (m := "XCH") (by simp [opTable, opTableMainB]) (by decide), fun r s => ?_⟩
  have frame : OnlyChanges [.reg r, .acc] s ((s.setReg r s.acc).setAcc (s.reg r)) :=
    ((OnlyChanges.refl _ s).setReg (by simp) _).setAcc (by simp) _
  exact ⟨_, rfl, by simp, rfl, rfl, frame.setPc _⟩

/-- Settles O17. -/
theorem junResult : Obligations.JunResult :=
  ⟨decode_addr (m := "JUN") (by simp [opTable, opTableMainA]),
    fun a s => ⟨_, rfl, rfl, (OnlyChanges.refl [] s).setPc a⟩⟩

/-- Settles O19: the incremented register is zero exactly where the register was 0xFF. -/
theorem iszResult : Obligations.IszResult := by
  refine ⟨decode_regAddr (m := "ISZ") (by simp [opTable, opTableMainA]) (by decide), fun r a s => ?_⟩
  have hzero := sumByte_one_eq_zero_iff (s.reg r)
  obtain ⟨hreg, hpc, frame⟩ := s.setReg_setPc_result r (sumByte (s.reg r) 1 false)
    (if sumByte (s.reg r) 1 false = 0 then s.pcPlus 3 else a)
  refine ⟨_, rfl, ?_, fun h => ?_, fun h => ?_, frame⟩
  · exact (congrArg BitVec.toNat hreg).trans (sumByte_toNat (s.reg r) 1 false)
  · exact hpc.trans (if_neg (mt hzero.mp h))
  · exact hpc.trans (if_pos (hzero.mpr h))

end Sys2Proof
end

section
/-! PROOF. The rolls as numbers, and the frame of the accumulator group: its instructions write ACC, C or both and move
PC by 1 (spec rules R110, R160 to R169). -/

namespace Sys2Proof.Machine

/-! ### The roll to the left on numbers -/

/-- The eight bits that stay in ACC are those of the 9-bit number 2*ACC + C below bit 8 (R165). -/
theorem rollLeft_toNat (a : Byte) (c : Bool) : (rollLeft a c).toNat = (2 * a.toNat + c.toNat) % 256 := by
  have happ : (rollLeft a c).toNat = (a.extractLsb' 0 7).toNat <<< 1 ||| (BitVec.ofBool c).toNat :=
    BitVec.toNat_append _ _
  have hc := c.toNat_lt
  rw [happ, BitVec.toNat_ofBool, ← Nat.shiftLeft_add_eq_or_of_lt hc, BitVec.extractLsb'_toNat, Nat.shiftLeft_eq,
    Nat.shiftRight_zero]
  omega

/-- Bit 7 of ACC is bit 8 of 2*ACC + C, since the carry in cannot reach it (R165). -/
theorem rollLeftCarry_iff (a : Byte) (c : Bool) : rollLeftCarry a = true ↔ 256 ≤ 2 * a.toNat + c.toNat := by
  have hmsb : rollLeftCarry a = decide (128 ≤ a.toNat) := BitVec.msb_eq_decide a
  have hc := c.toNat_lt
  rw [hmsb, decide_eq_true_iff]
  omega

/-! ### ACC and C written, then PC -/

theorem OnlyChanges.setCarry {ch : List Item} {s t : State} (h : OnlyChanges ch s t) (hcarry : Item.carry ∈ ch)
    (c : Bool) : OnlyChanges ch s (t.setCarry c) := by
  obtain ⟨hregs, hacc, -, hrest⟩ := h
  exact ⟨hregs, hacc, (absurd hcarry ·), hrest⟩

/-- An instruction that writes ACC and C and moves PC (CLB, IAC, RAL, RAR, TCC, DAC). -/
theorem State.setAcc_setCarry_setPc_frame (s : State) (v : Byte) (c : Bool) (a : Addr) :
    OnlyChanges [.acc, .carry] s (((s.setAcc v).setCarry c).setPc a) :=
  (((OnlyChanges.refl _ s).setAcc (by simp) v).setCarry (by simp) c).setPc a

/-- An instruction that writes C and moves PC (CLC, CMC, STC). -/
theorem State.setCarry_setPc_frame (s : State) (c : Bool) (a : Addr) :
    OnlyChanges [.carry] s ((s.setCarry c).setPc a) :=
  ((OnlyChanges.refl _ s).setCarry List.mem_cons_self c).setPc a

end Sys2Proof.Machine
end

section
/-! PROOF. The obligations of spec/42_accumulator_group.md. Every row has the format IMPLIED; the result is what the
meaning writes to ACC and C, and the rolls are read bit by bit or as numbers. -/

namespace Sys2Proof

open Machine

/-- Format IMPLIED in the table of the accumulator group (R82, R97). -/
theorem decode_accumulatorGroup {m : String} {v : Byte} {i : Instr} (hrow : .implied m v i ∈ opTableAcc)
    (rest : List Byte) : decode (v :: rest) = .ok (i, rest) :=
  decode_implied (m := m) (by simp [opTable, hrow]) rest

/-- Settles O25. -/
theorem carryConstants : Obligations.CarryConstants :=
  ⟨decode_accumulatorGroup (m := "CLB") (by simp [opTableAcc]),
    decode_accumulatorGroup (m := "CLC") (by simp [opTableAcc]),
    decode_accumulatorGroup (m := "STC") (by simp [opTableAcc]),
    fun s => ⟨_, rfl, rfl, rfl, rfl, s.setAcc_setCarry_setPc_frame 0x00 false _⟩,
    fun s => ⟨_, rfl, rfl, rfl, s.setCarry_setPc_frame false _⟩,
    fun s => ⟨_, rfl, rfl, rfl, s.setCarry_setPc_frame true _⟩⟩

/-- Settles O27. -/
theorem cmcResult : Obligations.CmcResult :=
  ⟨decode_accumulatorGroup (m := "CMC") (by simp [opTableAcc]),
    fun s => ⟨_, rfl, by cases s.carry <;> rfl, rfl, s.setCarry_setPc_frame (!s.carry) _⟩⟩

/-- Settles O28: the complement as a number and bit by bit. -/
theorem cmaResult : Obligations.CmaResult := by
  refine ⟨decode_accumulatorGroup (m := "CMA") (by simp [opTableAcc]), fun s => ?_⟩
  have frame : OnlyChanges [.acc] s (s.setAcc (~~~s.acc)) := (OnlyChanges.refl _ s).setAcc List.mem_cons_self _
  exact ⟨_, rfl, BitVec.toNat_not, fun k hk => by simp [hk], rfl, frame.setPc _⟩

/-- Settles O29: the carry out is bit 8 of the number whose bits below are the new ACC. -/
theorem ralResult : Obligations.RalResult :=
  ⟨decode_accumulatorGroup (m := "RAL") (by simp [opTableAcc]),
    fun s => ⟨_, rfl, rollLeft_toNat s.acc s.carry, rollLeftCarry_iff s.acc s.carry, rfl, rfl,
      s.setAcc_setCarry_setPc_frame _ _ _⟩⟩

/-- Settles O30: each bit of the new ACC by the law of the roll. -/
theorem rarResult : Obligations.RarResult := by
  refine ⟨decode_accumulatorGroup (m := "RAR") (by simp [opTableAcc]), fun s => ?_⟩
  have lower (k : Nat) (hk : k < 7) : (rollRight s.acc s.carry).getLsbD k = s.acc.getLsbD (k + 1) := by
    simp [rollRight_bit, hk, hk.ne]
  exact ⟨_, rfl, rollRight_bit s.acc s.carry 7, lower, rfl, rfl, s.setAcc_setCarry_setPc_frame _ _ _⟩

end Sys2Proof
end

section
/-! PROOF. The frame of the remaining updates (call stack, output, draws, HALTED), the two results that several
instructions share, and what a sum or a difference with 1 is as a number (spec rules R31, R36, R37, R38, R110, R131). -/

namespace Sys2Proof.Machine

/-! ### Updates within a list of changes -/

theorem OnlyChanges.withStack {ch : List Item} {s t : State} (h : OnlyChanges ch s t) (hstack : Item.stack ∈ ch)
    (l : List Addr) : OnlyChanges ch s { t with stack := l } := by
  obtain ⟨hregs, hacc, hcarry, -, hrest⟩ := h
  exact ⟨hregs, hacc, hcarry, (absurd hstack ·), hrest⟩

theorem OnlyChanges.emit {ch : List Item} {s t : State} (h : OnlyChanges ch s t) (hout : Item.out ∈ ch)
    (e : OutEvent) : OnlyChanges ch s (t.emit e) := by
  obtain ⟨hregs, hacc, hcarry, hstack, hmem, hhalted, -, hrest⟩ := h
  exact ⟨hregs, hacc, hcarry, hstack, hmem, hhalted, (absurd hout ·), hrest⟩

theorem OnlyChanges.drawn {ch : List Item} {s t : State} (h : OnlyChanges ch s t) (hdraws : Item.draws ∈ ch) :
    OnlyChanges ch s t.drawn := by
  obtain ⟨hregs, hacc, hcarry, hstack, hmem, hhalted, hout, -, hrest⟩ := h
  exact ⟨hregs, hacc, hcarry, hstack, hmem, hhalted, hout, (absurd hdraws ·), hrest⟩

theorem OnlyChanges.halt {ch : List Item} {s t : State} (h : OnlyChanges ch s t) (hhalted : Item.halted ∈ ch) :
    OnlyChanges ch s t.halt := by
  obtain ⟨hregs, hacc, hcarry, hstack, hmem, -, hrest⟩ := h
  exact ⟨hregs, hacc, hcarry, hstack, hmem, (absurd hhalted ·), hrest⟩

/-! ### Several instructions that write the same piece of state -/

/-- An instruction that writes one register and C and moves PC (INC, INO, ADD, SUB). -/
theorem State.setReg_setCarry_setPc_result (s : State) (r : Reg) (v : Byte) (c : Bool) (a : Addr) :
    (((s.setReg r v).setCarry c).setPc a).reg r = v ∧
      OnlyChanges [.reg r, .carry] s (((s.setReg r v).setCarry c).setPc a) :=
  ⟨by simp, (((OnlyChanges.refl _ s).setReg (by simp) v).setCarry (by simp) c).setPc a⟩

/-- An instruction that writes ACC and moves PC (LDM, LD, CMA). -/
theorem State.setAcc_setPc_frame (s : State) (v : Byte) (a : Addr) : OnlyChanges [.acc] s ((s.setAcc v).setPc a) :=
  ((OnlyChanges.refl _ s).setAcc List.mem_cons_self v).setPc a

/-- XCH writes one register and ACC and moves PC. -/
theorem State.setReg_setAcc_setPc_frame (s : State) (r : Reg) (v w : Byte) (a : Addr) :
    OnlyChanges [.reg r, .acc] s (((s.setReg r v).setAcc w).setPc a) :=
  (((OnlyChanges.refl _ s).setReg (by simp) v).setAcc (by simp) w).setPc a

/-- An instruction that reads the environment into ACC and moves PC (RDR, KBI). -/
theorem State.drawn_setAcc_setPc_frame (s : State) (v : Byte) (a : Addr) :
    OnlyChanges [.acc, .draws] s ((s.drawn.setAcc v).setPc a) :=
  (((OnlyChanges.refl _ s).drawn (by simp)).setAcc (by simp) v).setPc a

/-- An instruction that sends an event and moves PC (WMP, ASC). -/
theorem State.emit_setPc_frame (s : State) (e : OutEvent) (a : Addr) :
    OnlyChanges [.out] s ((s.emit e).setPc a) :=
  ((OnlyChanges.refl _ s).emit List.mem_cons_self e).setPc a

/-- A completed JMS: the call stack and PC. -/
theorem State.withStack_frame (s : State) (l : List Addr) (a : Addr) :
    OnlyChanges [.stack] s { s with stack := l, pc := a } :=
  OnlyChanges.setPc ((OnlyChanges.refl _ s).withStack List.mem_cons_self l) a

/-- A completed BBL: the call stack, PC and ACC. -/
theorem State.withStack_acc_frame (s : State) (l : List Addr) (a : Addr) (v : Byte) :
    OnlyChanges [.stack, .acc] s { s with stack := l, pc := a, acc := v } :=
  OnlyChanges.setPc (((OnlyChanges.refl _ s).withStack (by simp) l).setAcc (by simp) v) a

/-- JCN moves PC, and draws the test signal where its condition reads it. -/
theorem State.draw_if_setPc_frame (s : State) (b : Bool) (a : Addr) :
    OnlyChanges [.draws] s ((if b then s.drawn else s).setPc a) := by
  cases b
  · exact (OnlyChanges.refl _ s).setPc a
  · exact ((OnlyChanges.refl _ s).drawn List.mem_cons_self).setPc a

/-! ### Counting by 1, and the zero-extended immediate -/

/-- The carry out of `v + 1` (R119, R162). -/
theorem sumCarry_one_iff (v : Byte) : sumCarry v 1 false = true ↔ v = 0xFF := by
  rw [sumCarry_iff, ← BitVec.toNat_inj]
  have h := v.isLt
  simp only [BitVec.reduceToNat, Bool.toNat_false]
  omega

/-- The carry out of `v + C` (R120). -/
theorem sumCarry_zero_iff (v : Byte) (c : Bool) : sumCarry v 0 c = true ↔ c = true ∧ v = 0xFF := by
  rw [sumCarry_iff, ← BitVec.toNat_inj]
  have h := v.isLt
  cases c
  · simp only [BitVec.reduceToNat, Bool.toNat_false, Bool.false_eq_true, false_and, iff_false]
    omega
  · simp only [BitVec.reduceToNat, Bool.toNat_true, true_and]
    omega

/-- The borrow of `v - 1` (R168). -/
theorem diffBorrow_one_iff (v : Byte) : diffBorrow v 1 false = true ↔ v = 0x00 := by
  rw [diffBorrow_iff, ← BitVec.toNat_inj]
  simp only [BitVec.reduceToNat, Bool.toNat_false]
  omega

theorem immediate_toNat (d : Nibble) : (immediate d).toNat = d.toNat :=
  BitVec.toNat_setWidth_of_le (by decide)

/-! ### JMS and BBL where they complete -/

theorem exec_jms_of_room {s : State} (h : s.stack.length < Config.stackDepth) (a : Addr) :
    exec (.jms a) s = .next { s with stack := s.pcPlus 3 :: s.stack, pc := a } := by
  obtain ⟨-, e⟩ | ⟨hfull, -⟩ := execJms_cases a s
  · exact e
  · exact absurd h (Nat.not_lt.mpr hfull)

theorem exec_bbl_of_stack {s : State} {v : Addr} {below : List Addr} (h : s.stack = v :: below) (d : Nibble) :
    exec (.bbl d) s = .next { s with stack := below, pc := v, acc := immediate d } := by
  obtain ⟨w, rest, hstack, e⟩ | ⟨hempty, -⟩ := execBbl_cases d s
  · obtain ⟨rfl, rfl⟩ := List.cons.inj (h.symm.trans hstack)
    exact e
  · cases h.symm.trans hempty

/-! ### The condition of JCN -/

/-- The model's condition is that of R112: any selected test holds, or, inverted, none does. -/
theorem condHolds_iff_jumpTaken (c : Nibble) (s : State) :
    condHolds c s.acc s.carry s.testDraw = true ↔ jumpTaken c s := by
  unfold condHolds jumpTaken condInverts condZero condCarry condTest State.testDraw
  cases c.getLsbD 3 <;> simp [or_assoc, and_assoc, imp_iff_not_or]

end Sys2Proof.Machine
end

section
/-! PROOF. Byte 0 of a row with a 4-bit field, and the decoding of the formats that have one (spec rules R84, R86, R88,
R92, R95). -/

namespace Sys2Proof

/-- The 4-bit field of an opcode byte is what stands below the high nibble (R92). -/
theorem nibbleField_add_nibble {base : Nat} (hbase : base % 16 = 0) (d : Nibble) :
    nibbleField (BitVec.ofNat 8 (base + d.toNat)) = d := by
  have hd := d.isLt
  apply BitVec.eq_of_toNat_eq
  rw [nibbleField, BitVec.extractLsb'_toNat, BitVec.toNat_ofNat, Nat.shiftRight_zero]
  omega

/-- The 4-bit field changes none of the bits that a row with such a field fixes. -/
theorem add_nibble_and_0xF0 {base : Nat} (hbase : base % 16 = 0) (d : Nibble) :
    BitVec.ofNat 8 (base + d.toNat) &&& 0xF0 = BitVec.ofNat 8 base := by
  have hd := d.isLt
  rw [and_0xF0_eq_iff, BitVec.toNat_ofNat, BitVec.toNat_ofNat]
  omega

/-- Format IMM4 (R84). -/
theorem decode_imm4 {m : String} {base : Nat} {mk : Nibble → Instr}
    (hrow : .imm4 m (BitVec.ofNat 8 base) mk ∈ opTable) (hbase : base % 16 = 0) (d : Nibble) (rest : List Byte) :
    decode (BitVec.ofNat 8 (base + d.toNat) :: rest) = .ok (mk d, rest) :=
  decode_of_row hrow (add_nibble_and_0xF0 hbase d) (Nat.le_add_left 1 rest.length)
    (congrArg mk (nibbleField_add_nibble hbase d))

/-- Format PORT (R86). -/
theorem decode_port {m : String} {v : Byte} {mk : Byte → Instr} (hrow : .port m v mk ∈ opTable) (p : Byte)
    (rest : List Byte) : decode (v :: p :: rest) = .ok (mk p, rest) :=
  decode_of_row hrow (BitVec.and_allOnes (x := v)) (Nat.le_add_left 2 rest.length) rfl

/-- Format COND_ADDR, which only JCN has (R88). -/
theorem decode_jcn (c : Nibble) (lo hi : Byte) (rest : List Byte) :
    decode (BitVec.ofNat 8 (0x10 + c.toNat) :: lo :: hi :: rest) = .ok (.jcn c (hi ++ lo), rest) := by
  have hrow : ⟨"JCN", 0x10, 0xF0, 3, fun b0 b1 b2 => .jcn (nibbleField b0) (addrField b1 b2)⟩ ∈ opTable := by
    simp [opTable, opTableMainA]
  exact decode_of_row hrow (add_nibble_and_0xF0 (by decide) c) (Nat.le_add_left 3 rest.length)
    (congrArg (Instr.jcn · (hi ++ lo)) (nibbleField_add_nibble (by decide) c))

end Sys2Proof
end

section
/-! PROOF. The obligations about the results of the other instructions: register arithmetic, JCN, JMS, BBL, LDM, input
and output, and the rest of the accumulator group. -/

namespace Sys2Proof

open Machine

/-! ### LDM and the arithmetic into a register -/

/-- Settles O10. -/
theorem ldmResult : Obligations.LdmResult :=
  ⟨decode_imm4 (m := "LDM") (by simp [opTable, opTableMainB]) (by decide),
    fun d s => ⟨_, rfl, immediate_toNat d, rfl, s.setAcc_setPc_frame (immediate d) _⟩⟩

/-- Settles O11. -/
theorem incResult : Obligations.IncResult := by
  refine ⟨decode_reg (m := "INC") (by simp [opTable, opTableMainA]) (by decide), fun r s => ?_⟩
  obtain ⟨hreg, frame⟩ := s.setReg_setCarry_setPc_result r (sumByte (s.reg r) 1 false) (sumCarry (s.reg r) 1 false)
    (s.pc + 1)
  exact ⟨_, rfl, congrArg BitVec.toNat hreg, sumCarry_one_iff (s.reg r), rfl, frame⟩

/-- Settles O12. -/
theorem inoResult : Obligations.InoResult := by
  refine ⟨decode_reg (m := "INO") (by simp [opTable, opTableMainA]) (by decide), fun r s => ?_⟩
  obtain ⟨hreg, frame⟩ := s.setReg_setCarry_setPc_result r (sumByte (s.reg r) 0 s.carry)
    (sumCarry (s.reg r) 0 s.carry) (s.pc + 1)
  exact ⟨_, rfl, congrArg BitVec.toNat hreg, sumCarry_zero_iff (s.reg r) s.carry, rfl, frame⟩

/-- Settles O13. -/
theorem addResult : Obligations.AddResult := by
  refine ⟨decode_reg (m := "ADD") (by simp [opTable, opTableMainB]) (by decide), fun r s => ?_⟩
  obtain ⟨hreg, frame⟩ := s.setReg_setCarry_setPc_result r (sumByte s.acc (s.reg r) s.carry)
    (sumCarry s.acc (s.reg r) s.carry) (s.pc + 1)
  exact ⟨_, rfl, congrArg BitVec.toNat hreg, sumCarry_iff s.acc (s.reg r) s.carry, rfl, frame⟩

/-- Settles O14. -/
theorem xorResult : Obligations.XorResult := by
  refine ⟨decode_reg (m := "XOR") (by simp [opTable, opTableMainB]) (by decide), fun r s => ?_⟩
  obtain ⟨hreg, hpc, frame⟩ := s.setReg_setPc_result r (s.acc ^^^ s.reg r) (s.pc + 1)
  refine ⟨_, rfl, fun k => ?_, hpc, frame⟩
  exact (congrArg (BitVec.getLsbD · k) hreg).trans BitVec.getLsbD_xor

/-- Settles O15. -/
theorem subResult : Obligations.SubResult := by
  refine ⟨decode_reg (m := "SUB") (by simp [opTable, opTableMainB]) (by decide), fun r s => ?_⟩
  obtain ⟨hreg, frame⟩ := s.setReg_setCarry_setPc_result r (diffByte s.acc (s.reg r) s.carry)
    (diffBorrow s.acc (s.reg r) s.carry) (s.pc + 1)
  have hvalue := diffByte_toNat s.acc (s.reg r) s.carry
  rw [← hreg] at hvalue
  exact ⟨_, rfl, hvalue, diffBorrow_iff s.acc (s.reg r) s.carry, rfl, frame⟩

/-! ### Control transfer -/

/-- Settles O16: the model's condition is the one of R112, and the frame is that of a draw made or not made. -/
theorem jcnResult : Obligations.JcnResult := by
  refine ⟨decode_jcn, fun c a s => ?_⟩
  have htaken := condHolds_iff_jumpTaken c s
  refine ⟨_, rfl, fun h => if_pos (htaken.mpr h), fun h => if_neg (mt htaken.mp h), ?_, s.draw_if_setPc_frame _ _⟩
  rw [State.setPc_draws, condTest]
  split <;> rfl

/-- Settles O18: the two cases of JMS, by the length of the call stack. -/
theorem jmsResult : Obligations.JmsResult := by
  refine ⟨decode_addr (m := "JMS") (by simp [opTable, opTableMainA]),
    fun a s h => ⟨_, exec_jms_of_room h a, rfl, rfl, s.withStack_frame _ a⟩, fun a s h => ?_⟩
  obtain ⟨hroom, -⟩ | ⟨-, e⟩ := execJms_cases a s
  · exact absurd hroom (Nat.not_lt.mpr h)
  · exact e

/-- Settles O20: the two cases of BBL, by whether the call stack is empty. -/
theorem bblResult : Obligations.BblResult := by
  refine ⟨decode_imm4 (m := "BBL") (by simp [opTable, opTableMainB]) (by decide),
    fun d s v below h => ⟨_, exec_bbl_of_stack h d, rfl, rfl, immediate_toNat d, s.withStack_acc_frame below v _⟩,
    fun d s h => ?_⟩
  obtain ⟨v, below, hstack, -⟩ | ⟨-, e⟩ := execBbl_cases d s
  · cases h.symm.trans hstack
  · exact e

/-! ### Input and output -/

/-- Settles O21. -/
theorem outputResult : Obligations.OutputResult :=
  ⟨decode_port (m := "WMP") (by simp [opTable, opTableIo]), decode_implied (m := "ASC") (by simp [opTable, opTableIo]),
    fun p s => ⟨_, rfl, rfl, rfl, s.emit_setPc_frame (.port p s.acc) _⟩,
    fun s => ⟨_, rfl, rfl, rfl, s.emit_setPc_frame (.vdu s.acc) _⟩⟩

/-- Settles O22. -/
theorem rdrResult : Obligations.RdrResult :=
  ⟨decode_port (m := "RDR") (by simp [opTable, opTableIo]),
    fun p s => ⟨_, rfl, rfl, rfl, rfl, s.drawn_setAcc_setPc_frame (s.portDraw p) _⟩⟩

/-- Settles O23: with KBI_BLOCKS false no KBI waits. -/
theorem kbiResult : Obligations.KbiResult := by
  refine ⟨decode_implied (m := "KBI") (by simp [opTable, opTableIo]), fun s h => ?_⟩
  have hready : ¬s.keyAwaited = true := by simp [State.keyAwaited, h]
  exact ⟨_, if_neg hready, rfl, rfl, rfl, s.drawn_setAcc_setPc_frame s.keyDraw _⟩

/-- Settles O24: with KBI_BLOCKS true a KBI waits exactly where no key is offered. -/
theorem kbiMayWait : Obligations.KbiMayWait := by
  intro s hblocks
  have hawaited : s.keyAwaited = !Config.keyOffered s.draws := by simp [State.keyAwaited, hblocks]
  cases hkey : Config.keyOffered s.draws with
  | true =>
    have hready : ¬s.keyAwaited = true := by simp [hawaited, hkey]
    exact ⟨_, if_neg hready, rfl, fun _ => ⟨rfl, rfl, s.drawn_setAcc_setPc_frame s.keyDraw _⟩, nofun⟩
  | false =>
    have hwaits : s.keyAwaited = true := by simp [hawaited, hkey]
    exact ⟨_, if_pos hwaits, rfl, nofun, fun _ => ⟨rfl, (OnlyChanges.refl _ s).drawn List.mem_cons_self⟩⟩

/-! ### The accumulator group -/

/-- Settles O26. -/
theorem accCountResult : Obligations.AccCountResult :=
  ⟨decode_accumulatorGroup (m := "IAC") (by simp [opTableAcc]),
    decode_accumulatorGroup (m := "DAC") (by simp [opTableAcc]),
    fun s => ⟨_, rfl, sumByte_toNat s.acc 1 false, sumCarry_one_iff s.acc, rfl, s.setAcc_setCarry_setPc_frame _ _ _⟩,
    fun s => ⟨_, rfl, (diffByte_toNat s.acc 1 false).trans (by simp), diffBorrow_one_iff s.acc, rfl,
      s.setAcc_setCarry_setPc_frame _ _ _⟩⟩

/-- Settles O31. -/
theorem tccResult : Obligations.TccResult :=
  ⟨decode_accumulatorGroup (m := "TCC") (by simp [opTableAcc]),
    fun s => ⟨_, rfl, by cases s.carry <;> rfl, rfl, rfl, s.setAcc_setCarry_setPc_frame _ _ _⟩⟩

/-- Settles O32. -/
theorem daaResult : Obligations.DaaResult :=
  ⟨decode_accumulatorGroup (m := "DAA") (by simp [opTableAcc]),
    fun s => ⟨_, rfl, rfl, rfl, s.setAcc_setCarry_setPc_frame _ _ _⟩⟩

/-- Settles O33. -/
theorem hltResult : Obligations.HltResult :=
  ⟨decode_accumulatorGroup (m := "HLT") (by simp [opTableAcc]),
    fun s => ⟨_, rfl, rfl, rfl, ((OnlyChanges.refl _ s).halt List.mem_cons_self).setPc _⟩⟩

end Sys2Proof
end

section
/-! PROOF. The round trip between encoding and decoding (spec rules R82 to R97): each instruction is decoded from its
own encoding, and each row of the opcode map builds an instruction whose encoding is the bytes it was built from. -/

namespace Sys2Proof

/-! ### The opcode bytes that the encoder writes -/

/-- An opcode byte with a register field is decoded as the number base + 2*RRR is (R83). -/
theorem decode_regByte {base : Nat} {r : Reg} {bs : List Byte} {x : Except DecodeError (Instr × List Byte)}
    (h : decode (BitVec.ofNat 8 (base + 2 * r.index) :: bs) = x) :
    decode (regByte (BitVec.ofNat 8 base) r :: bs) = x := by
  rwa [regByte, ← BitVec.ofNat_add]

/-- An opcode byte with a 4-bit field is decoded as the number base + DDDD is (R84, R88). -/
theorem decode_nibbleByte {base : Nat} {d : Nibble} {bs : List Byte} {x : Except DecodeError (Instr × List Byte)}
    (h : decode (BitVec.ofNat 8 (base + d.toNat) :: bs) = x) :
    decode (nibbleByte (BitVec.ofNat 8 base) d :: bs) = x := by
  rwa [nibbleByte, ← BitVec.ofNat_toNat, ← BitVec.ofNat_add]

/-- A format with an address operand gives back the address whose bytes it reads (R56, R94). -/
theorem decode_addrBytes {b0 : Byte} {mk : Addr → Instr}
    (h : ∀ lo hi rest, decode (b0 :: lo :: hi :: rest) = .ok (mk (hi ++ lo), rest)) (a : Addr) (rest : List Byte) :
    decode (b0 :: addrBytes a ++ rest) = .ok (mk a, rest) :=
  (h _ _ rest).trans (congrArg (fun x => Except.ok (mk x, rest)) (addrField_addrBytes a))

/-- Settles O43: the encoder writes the opcode byte and operands from which each instruction's own statement decodes
it. -/
theorem decodeOfEncode : Obligations.DecodeOfEncode := by
  intro i rest
  cases i with
  | nop => exact nopResult.1 rest
  | jcn c a => exact decode_addrBytes (mk := .jcn c) (fun lo hi bs => decode_nibbleByte (jcnResult.1 c lo hi bs)) a rest
  | fim r d => exact decode_regByte (fimResult.1 r d rest)
  | zer r => exact decode_regByte (zerResult.1 r rest)
  | fin r => exact decode_regByte (finResult.1 r rest)
  | ftc r a => exact decode_addrBytes (mk := .ftc r) (fun lo hi bs => decode_regByte (ftcResult.1 r lo hi bs)) a rest
  | jun a => exact decode_addrBytes (mk := .jun) junResult.1 a rest
  | jms a => exact decode_addrBytes (mk := .jms) jmsResult.1 a rest
  | inc r => exact decode_regByte (incResult.1 r rest)
  | ino r => exact decode_regByte (inoResult.1 r rest)
  | isz r a => exact decode_addrBytes (mk := .isz r) (fun lo hi bs => decode_regByte (iszResult.1 r lo hi bs)) a rest
  | sto r a => exact decode_addrBytes (mk := .sto r) (fun lo hi bs => decode_regByte (stoResult.1 r lo hi bs)) a rest
  | add r => exact decode_regByte (addResult.1 r rest)
  | xor r => exact decode_regByte (xorResult.1 r rest)
  | sub r => exact decode_regByte (subResult.1 r rest)
  | sti r => exact decode_regByte (stiResult.1 r rest)
  | ld r => exact decode_regByte (ldResult.1 r rest)
  | xch r => exact decode_regByte (xchResult.1 r rest)
  | bbl d => exact decode_nibbleByte (bblResult.1 d rest)
  | ldm d => exact decode_nibbleByte (ldmResult.1 d rest)
  | wmp p => exact outputResult.1 p rest
  | rdr p => exact rdrResult.1 p rest
  | kbi => exact kbiResult.1 rest
  | asc => exact decode_implied (m := "ASC") (by simp [opTable, opTableIo]) rest
  | clb => exact carryConstants.1 rest
  | clc => exact decode_accumulatorGroup (m := "CLC") (by simp [opTableAcc]) rest
  | iac => exact accCountResult.1 rest
  | cmc => exact cmcResult.1 rest
  | cma => exact cmaResult.1 rest
  | ral => exact ralResult.1 rest
  | rar => exact rarResult.1 rest
  | tcc => exact tccResult.1 rest
  | dac => exact decode_accumulatorGroup (m := "DAC") (by simp [opTableAcc]) rest
  | stc => exact decode_accumulatorGroup (m := "STC") (by simp [opTableAcc]) rest
  | daa => exact daaResult.1 rest
  | hlt => exact hltResult.1 rest

/-! ### What a row builds is encoded by the bytes it was built from -/

/-- From every byte 0 with its fixed bits and any operand bytes, a row builds an instruction whose encoding is those
bytes, as many as the row's size. -/
def OpRow.Reencodes (row : OpRow) : Prop :=
  ∀ b0 b1 b2, b0 &&& row.mask = row.value → encode (row.build b0 b1 b2) = [b0, b1, b2].take row.size

/-- Byte 0 of a row that fixes all of it (R82, R86, R87). -/
theorem eq_of_and_0xFF {b v : Byte} (h : b &&& 0xFF = v) : v = b :=
  h.symm.trans (BitVec.and_allOnes (x := b))

/-- Byte 0 of a row with a register field (R83, R85, R89). -/
theorem regByte_of_and_0xF1 {b v : Byte} (h : b &&& 0xF1 = v) : regByte v (regField b) = b :=
  h ▸ regByte_regField b

/-- Byte 0 of a row with a 4-bit field (R84, R88). -/
theorem nibbleByte_of_and_0xF0 {b v : Byte} (h : b &&& 0xF0 = v) : nibbleByte v (nibbleField b) = b :=
  h ▸ nibbleByte_nibbleField b

theorem OpRow.Reencodes.implied {m : String} {v : Byte} {i : Instr} (h : encode i = [v]) :
    (OpRow.implied m v i).Reencodes := fun _ _ _ hbits =>
  h.trans (congrArg ([·]) (eq_of_and_0xFF hbits))

theorem OpRow.Reencodes.port {m : String} {v : Byte} {mk : Byte → Instr} (h : ∀ p, encode (mk p) = [v, p]) :
    (OpRow.port m v mk).Reencodes := fun _ b1 _ hbits =>
  (h b1).trans (congrArg ([·, b1]) (eq_of_and_0xFF hbits))

theorem OpRow.Reencodes.addr {m : String} {v : Byte} {mk : Addr → Instr} (h : ∀ a, encode (mk a) = v :: addrBytes a) :
    (OpRow.addr m v mk).Reencodes := fun _ b1 b2 hbits =>
  (h _).trans (congrArg₂ (· :: ·) (eq_of_and_0xFF hbits) (addrBytes_addrField b1 b2))

theorem OpRow.Reencodes.reg {m : String} {v : Byte} {mk : Reg → Instr} (h : ∀ r, encode (mk r) = [regByte v r]) :
    (OpRow.reg m v mk).Reencodes := fun _ _ _ hbits =>
  (h _).trans (congrArg ([·]) (regByte_of_and_0xF1 hbits))

theorem OpRow.Reencodes.regAddr {m : String} {v : Byte} {mk : Reg → Addr → Instr}
    (h : ∀ r a, encode (mk r a) = regByte v r :: addrBytes a) :
    (OpRow.regAddr m v mk).Reencodes := fun _ b1 b2 hbits =>
  (h _ _).trans (congrArg₂ (· :: ·) (regByte_of_and_0xF1 hbits) (addrBytes_addrField b1 b2))

theorem OpRow.Reencodes.imm4 {m : String} {v : Byte} {mk : Nibble → Instr} (h : ∀ d, encode (mk d) = [nibbleByte v d]) :
    (OpRow.imm4 m v mk).Reencodes := fun _ _ _ hbits =>
  (h _).trans (congrArg ([·]) (nibbleByte_of_and_0xF0 hbits))

/-- Format COND_ADDR, which only JCN has (R88). -/
theorem OpRow.Reencodes.jcn :
    OpRow.Reencodes ⟨"JCN", 0x10, 0xF0, 3, fun b0 b1 b2 => .jcn (nibbleField b0) (addrField b1 b2)⟩ :=
  fun _ b1 b2 hbits => congrArg₂ (· :: ·) (nibbleByte_of_and_0xF0 hbits) (addrBytes_addrField b1 b2)

/-- Format REG_IMM8, which only FIM has (R85). -/
theorem OpRow.Reencodes.fim : OpRow.Reencodes ⟨"FIM", 0x20, 0xF1, 2, fun b0 b1 _ => .fim (regField b0) b1⟩ :=
  fun _ b1 _ hbits => congrArg ([·, b1]) (regByte_of_and_0xF1 hbits)

/-- Every row of the opcode map, format by format. -/
theorem opTable_reencodes : ∀ row ∈ opTable, row.Reencodes := by
  simp only [opTable, List.forall_mem_append, opTableMainA, opTableMainB, opTableIo, opTableAcc, List.forall_mem_cons]
  exact ⟨⟨.implied rfl, .jcn, .fim, .reg fun _ => rfl, .reg fun _ => rfl, .regAddr fun _ _ => rfl, .addr fun _ => rfl,
      .addr fun _ => rfl, .reg fun _ => rfl, .reg fun _ => rfl, .regAddr fun _ _ => rfl, .regAddr fun _ _ => rfl,
      List.forall_mem_nil _⟩,
    ⟨.reg fun _ => rfl, .reg fun _ => rfl, .reg fun _ => rfl, .reg fun _ => rfl, .reg fun _ => rfl, .reg fun _ => rfl,
      .imm4 fun _ => rfl, .imm4 fun _ => rfl, List.forall_mem_nil _⟩,
    ⟨.port fun _ => rfl, .port fun _ => rfl, .implied rfl, .implied rfl, List.forall_mem_nil _⟩,
    ⟨.implied rfl, .implied rfl, .implied rfl, .implied rfl, .implied rfl, .implied rfl, .implied rfl, .implied rfl,
      .implied rfl, .implied rfl, .implied rfl, .implied rfl, List.forall_mem_nil _⟩⟩

/-- The bytes that an instruction uses, with zeros read beyond the end, and the bytes after them. -/
theorem take_getD_append_drop (b0 : Byte) (tail : List Byte) {n : Nat} (hn : n = 3 ∨ n = 2 ∨ n = 1)
    (hlen : n ≤ tail.length + 1) :
    [b0, tail.getD 0 0, tail.getD 1 0].take n ++ tail.drop (n - 1) = b0 :: tail := by
  obtain rfl | rfl | rfl := hn
  · match tail, hlen with
    | b1 :: b2 :: rest, _ => rfl
  · match tail, hlen with
    | b1 :: rest, _ => rfl
  · rfl

/-- Settles O44: the row of byte 0 reencodes, and the rest is what follows the row's size. -/
theorem encodeOfDecode : Obligations.EncodeOfDecode := by
  intro bs i rest h
  cases bs with
  | nil => cases h
  | cons b0 tail =>
    rw [decode_cons] at h
    cases hfind : findRow b0 with
    | none => simp [hfind] at h
    | some row =>
      obtain ⟨hrow, hbits⟩ := findRow_some hfind
      have hsize : row.size = 3 ∨ row.size = 2 ∨ row.size = 1 := by
        obtain ⟨-, hranges⟩ := (opTable_ranges b0).1 row hrow hbits
        exact hranges.imp And.left (Or.imp And.left And.left)
      simp only [hfind] at h
      split at h
      · cases h
      · next hlen =>
        cases h
        rw [opTable_reencodes row hrow _ _ _ hbits]
        exact (take_getD_append_drop b0 tail hsize (Nat.not_lt.mp hlen)).symm

/-- Settles O47: fixed words, by evaluation. -/
theorem decodedWords : Obligations.DecodedWords := by
  unfold Obligations.DecodedWords
  decide

end Sys2Proof
end

section
/-! PROOF. The step around an instruction: what is fetched, the fault of an unassigned byte, and the states in which
nothing is executed (spec rules R36, R41, R96, R99, R182). -/

namespace Sys2Proof.Machine

/-- Byte 0 of the current instruction is the byte at PC. -/
theorem State.fetchByte_zero (s : State) : s.fetchByte 0 = s.readByte s.pc :=
  congrArg s.readByte (BitVec.add_zero s.pc)

/-- The bytes that a fetch reads are those at PC, PC + 1 and PC + 2 (R11, R30). -/
theorem State.fetched_eq (s : State) :
    s.fetched = decodeWindow (s.readByte s.pc) (s.readByte (s.pc + 1)) (s.readByte (s.pc + 2)) := by
  rw [State.fetched, State.fetchByte_zero]
  rfl

/-- Three bytes from which the decoder of a list reads an instruction hold it as a window too. -/
theorem decodeWindow_of_decode {b0 b1 b2 : Byte} {i : Instr} {rest : List Byte}
    (h : decode [b0, b1, b2] = .ok (i, rest)) : decodeWindow b0 b1 b2 = some i := by
  rw [decode_cons] at h
  rw [decodeWindow]
  cases hfind : findRow b0 with
  | none => simp [hfind] at h
  | some row =>
    simp only [hfind] at h
    split at h
    · cases h
    · cases h; rfl

theorem step_of_fetched {s : State} {i : Instr} (hr : s.running) (hf : s.fetched = some i) : step s = exec i s := by
  obtain ⟨hmark, hpin, hhalted⟩ := hr
  simp [step, State.executes, hmark, hpin, hhalted, hf]

theorem step_of_not_fetched {s : State} (hr : s.running) (hf : s.fetched = none) : step s = s.illegal := by
  obtain ⟨hmark, hpin, hhalted⟩ := hr
  simp [step, State.executes, hmark, hpin, hhalted, hf]

theorem step_of_marked {s : State} {r : Fault} (hmark : s.faultMark = some r) : step s = .fault r := by
  simp [step, hmark, raise]

theorem State.afterStep_of_fault {s : State} {r : Fault} (h : step s = .fault r) : s.afterStep = s.marked r := by
  simp [State.afterStep, h]

/-- Settles O48. -/
theorem stepRunsDecoded : Obligations.StepRunsDecoded := by
  intro s i rest hr h
  refine step_of_fetched hr ?_
  rw [State.fetched_eq, decodeWindow_of_decode h]

/-- Settles O49: an unassigned byte has no row, so no instruction is fetched. -/
theorem illegalOpcodeFault : Obligations.IllegalOpcodeFault := by
  intro s hr hb
  have hf : s.fetched = none := by
    rw [State.fetched_eq, decodeWindow, (findRow_eq_none_iff _).mpr hb, Option.map_none]
  rw [step_of_not_fetched hr hf, State.illegal, State.fetchByte_zero, raise]

/-- Settles O50. -/
theorem stoppedStaysPut : Obligations.StoppedStaysPut := by
  intro s hmark hstopped
  have hidle : s.executes = false := by
    obtain h | h := hstopped
    · simp [State.executes, h]
    · simp [State.executes, h]
  simp [step, hmark, hidle]

/-- Settles O51: setting a mark that is set already changes nothing. -/
theorem faultMarkFinal : Obligations.FaultMarkFinal := by
  refine ⟨fun s r h => State.afterStep_of_fault h, fun s r hmark => ?_⟩
  have hstep := step_of_marked hmark
  have hsame : s.marked r = s := by rw [State.marked, ← hmark]
  exact ⟨hstep, (State.afterStep_of_fault hstep).trans hsame⟩

/-- Settles O53. -/
theorem resetInvariant : Obligations.ResetInvariant :=
  ⟨State.reset_mem_wf, Nat.zero_le _, fun _ => rfl⟩

/-- Settles O54. -/
theorem resetState : Obligations.ResetState :=
  ⟨rfl, rfl, rfl, rfl, ⟨rfl, rfl, rfl⟩, rfl⟩

end Sys2Proof.Machine
end

section
/-! PROOF. What an instruction can do, said once for all of them: whether it completes, which pieces of state it may
write, and what it does to the call stack and to memory (spec rules R22, R24, R26, R31, R50, R110, R181). -/

namespace Sys2Proof.Machine

/-! ### Whether an instruction completes -/

/-- All that KBI can do (R152). -/
theorem execKbi_cases (s : State) :
    (s.keyAwaited = true ∧ exec .kbi s = .next s.drawn) ∨
    (s.keyAwaited = false ∧ exec .kbi s = .next ((s.drawn.setAcc s.keyDraw).advance 1)) := by
  cases h : s.keyAwaited
  · exact .inr ⟨rfl, if_neg (by simp [h])⟩
  · exact .inl ⟨rfl, if_pos h⟩

/-- All that an instruction can do: complete, or raise the fault of JMS or that of BBL (R181). -/
theorem exec_cases (i : Instr) (s : State) :
    (∃ t, exec i s = .next t) ∨
    (∃ a, i = .jms a ∧ 128 ≤ s.stack.length ∧ exec i s = .fault (.stackOverflow s.pc)) ∨
    (∃ d, i = .bbl d ∧ s.stack = [] ∧ exec i s = .fault (.stackUnderflow s.pc)) := by
  cases i
  case jms a =>
    obtain ⟨-, e⟩ | ⟨hfull, e⟩ := execJms_cases a s
    · exact .inl ⟨_, e⟩
    · exact .inr (.inl ⟨a, rfl, hfull, e⟩)
  case bbl d =>
    obtain ⟨v, rest, -, e⟩ | ⟨hempty, e⟩ := execBbl_cases d s
    · exact .inl ⟨_, e⟩
    · exact .inr (.inr ⟨d, rfl, hempty, e⟩)
  case kbi =>
    obtain ⟨-, e⟩ | ⟨-, e⟩ := execKbi_cases s
    · exact .inl ⟨_, e⟩
    · exact .inl ⟨_, e⟩
  all_goals exact .inl ⟨_, rfl⟩

section Completed

variable {s t : State}

/-- A completed JMS had room on the call stack (R118). -/
theorem exec_jms_next {a : Addr} (h : exec (.jms a) s = .next t) :
    s.stack.length < Config.stackDepth ∧ t = { s with stack := s.pcPlus 3 :: s.stack, pc := a } := by
  obtain ⟨hroom, e⟩ | ⟨-, e⟩ := execJms_cases a s
  · cases e.symm.trans h
    exact ⟨hroom, rfl⟩
  · cases e.symm.trans h

/-- A completed BBL had an entry on the call stack (R129). -/
theorem exec_bbl_next {d : Nibble} (h : exec (.bbl d) s = .next t) :
    ∃ v rest, s.stack = v :: rest ∧ t = { s with stack := rest, pc := v, acc := immediate d } := by
  obtain ⟨v, rest, hstack, e⟩ | ⟨-, e⟩ := execBbl_cases d s
  · cases e.symm.trans h
    exact ⟨v, rest, hstack, rfl⟩
  · cases e.symm.trans h

/-- A KBI has waited or read a key (R152). -/
theorem exec_kbi_next (h : exec .kbi s = .next t) :
    (s.keyAwaited = true ∧ t = s.drawn) ∨ (s.keyAwaited = false ∧ t = (s.drawn.setAcc s.keyDraw).advance 1) := by
  obtain ⟨hwaits, e⟩ | ⟨hready, e⟩ := execKbi_cases s
  · cases e.symm.trans h
    exact .inl ⟨hwaits, rfl⟩
  · cases e.symm.trans h
    exact .inr ⟨hready, rfl⟩

end Completed

/-! ### The frame of every instruction -/

/-- The pieces of state besides PC that an instruction may write in a state. -/
def itemsWritten (s : State) : Instr → List Item
  | .nop | .jun _ => []
  | .jcn _ _ => [.draws]
  | .fim r _ | .zer r | .fin r | .ftc r _ | .isz r _ | .xor r => [.reg r]
  | .inc r | .ino r | .add r | .sub r => [.reg r, .carry]
  | .sto _ a => [.mem a]
  | .sti _ => [.mem s.pointer]
  | .ld _ | .ldm _ | .cma => [.acc]
  | .xch r => [.reg r, .acc]
  | .jms _ => [.stack]
  | .bbl _ => [.stack, .acc]
  | .wmp _ | .asc => [.out]
  | .rdr _ | .kbi => [.acc, .draws]
  | .clb | .iac | .ral | .rar | .tcc | .dac | .daa => [.acc, .carry]
  | .clc | .cmc | .stc => [.carry]
  | .hlt => [.halted]

/-- Every instruction that completes leaves all as it was but PC and the pieces of state it may write. -/
theorem exec_frame {i : Instr} {s t : State} (h : exec i s = .next t) : OnlyChanges (itemsWritten s i) s t := by
  cases i with
  | jms a =>
    obtain ⟨-, rfl⟩ := exec_jms_next h
    exact s.withStack_frame _ _
  | bbl d =>
    obtain ⟨v, rest, -, rfl⟩ := exec_bbl_next h
    exact s.withStack_acc_frame _ _ _
  | kbi =>
    obtain ⟨-, rfl⟩ | ⟨-, rfl⟩ := exec_kbi_next h
    · exact (OnlyChanges.refl _ s).drawn (List.mem_cons_of_mem _ List.mem_cons_self)
    · exact s.drawn_setAcc_setPc_frame _ _
  | nop | jun _ => cases h; exact (OnlyChanges.refl _ s).setPc _
  | jcn _ _ => cases h; exact s.draw_if_setPc_frame _ _
  | fim r _ | zer r | fin r | ftc r _ | isz r _ | xor r => cases h; exact (s.setReg_setPc_result r _ _).2.2
  | inc r | ino r | add r | sub r => cases h; exact (s.setReg_setCarry_setPc_result r _ _ _).2
  | sto _ _ | sti _ => cases h; exact (s.writeByte_setPc_result _ _ _).2.2
  | ld _ | ldm _ | cma => cases h; exact s.setAcc_setPc_frame _ _
  | xch r => cases h; exact s.setReg_setAcc_setPc_frame r _ _ _
  | wmp _ | asc => cases h; exact s.emit_setPc_frame _ _
  | rdr _ => cases h; exact s.drawn_setAcc_setPc_frame _ _
  | clb | iac | ral | rar | tcc | dac | daa => cases h; exact s.setAcc_setCarry_setPc_frame _ _ _
  | clc | cmc | stc => cases h; exact s.setCarry_setPc_frame _ _
  | hlt => cases h; exact ((OnlyChanges.refl _ s).halt List.mem_cons_self).setPc _

end Sys2Proof.Machine
end

section
/-! PROOF. The obligations about what no instruction does. Each reads one piece of state off the frame of every
instruction; the instructions that may write it are taken one by one. -/

namespace Sys2Proof.Machine

/-! ### The lists of the spec, by what an instruction may write -/

section Lists

variable (s : State) (i : Instr)

theorem reg_mem_itemsWritten (q : Reg) : Item.reg q ∈ itemsWritten s i ↔ regWritten i = some q := by
  cases i <;> simp [itemsWritten, regWritten, eq_comm]

theorem acc_mem_itemsWritten : Item.acc ∈ itemsWritten s i ↔ writesAcc i = true := by
  cases i <;> simp [itemsWritten, writesAcc]

theorem mem_mem_itemsWritten (a : Addr) : Item.mem a ∈ itemsWritten s i ↔ storesTo s i = some a := by
  cases i <;> simp [itemsWritten, storesTo, eq_comm]

end Lists

/-- Settles O34: a register that the instruction may write is the one it selects. -/
theorem registerWriters : Obligations.RegisterWriters := by
  intro i s t h q hq
  obtain ⟨hregs, -⟩ := exec_frame h
  exact hregs q (mt (reg_mem_itemsWritten s i q).mp hq)

/-- Settles O35: ACC is among what an instruction may write exactly where the list of R24 has it. -/
theorem accumulatorWriters : Obligations.AccumulatorWriters := by
  intro i s t h hi
  obtain ⟨-, hacc, -⟩ := exec_frame h
  exact hacc (by simp [acc_mem_itemsWritten, hi])

/-- Settles O37: STO and STI may write the one byte they store to. -/
theorem storesOnlyWhereNamed : Obligations.StoresOnlyWhereNamed := by
  intro i s t h a ha
  obtain ⟨-, -, -, -, hbytes, -⟩ := exec_frame h
  exact hbytes a (mt (mem_mem_itemsWritten s i a).mp ha)

/-- Settles O36: the writers of C by their arithmetic, every other instruction by its frame. -/
theorem carryAfterEach : Obligations.CarryAfterEach := by
  intro i s t h
  obtain ⟨-, -, hcarry, -⟩ := exec_frame h
  cases i with
  | inc r => cases h; exact Bool.eq_iff_iff.mpr ((sumCarry_one_iff (s.reg r)).trans decide_eq_true_iff.symm)
  | iac => cases h; exact Bool.eq_iff_iff.mpr ((sumCarry_one_iff s.acc).trans decide_eq_true_iff.symm)
  | ino r => cases h; exact Bool.eq_iff_iff.mpr ((sumCarry_zero_iff (s.reg r) s.carry).trans (by simp [carryAfter]))
  | sub r => cases h; exact Bool.eq_iff_iff.mpr ((diffBorrow_iff s.acc _ _).trans decide_eq_true_iff.symm)
  | dac => cases h; exact Bool.eq_iff_iff.mpr ((diffBorrow_one_iff s.acc).trans decide_eq_true_iff.symm)
  | add _ | ral | rar | cmc | clb | clc | tcc | stc | daa => cases h; rfl
  | _ => exact hcarry (by simp [itemsWritten])

/-- Settles O38: the frame of every instruction but JMS and BBL leaves out the call stack. -/
theorem stackOnlyByCalls : Obligations.StackOnlyByCalls := by
  intro i s t h
  obtain ⟨-, -, -, hstack, -⟩ := exec_frame h
  cases i with
  | jms a =>
    obtain ⟨-, rfl⟩ := exec_jms_next h
    exact .inr (.inl ⟨a, rfl, rfl⟩)
  | bbl d =>
    obtain ⟨v, rest, hs, rfl⟩ := exec_bbl_next h
    exact .inr (.inr ⟨d, v, rfl, hs⟩)
  | _ => exact .inl (hstack (by simp [itemsWritten]))

/-- Settles O39: the frame of every instruction but WMP and ASC leaves out OUT. -/
theorem outputHistory : Obligations.OutputHistory := by
  intro i s t h
  obtain ⟨-, -, -, -, -, -, hout, -⟩ := exec_frame h
  cases i with
  | wmp _ | asc => cases h; rfl
  | _ => exact (hout (by simp [itemsWritten])).trans (List.append_nil s.out).symm

theorem State.pcPlus_toNat (s : State) (n : Nat) : (s.pcPlus n).toNat = (s.pc.toNat + n) % 65536 := by
  simp [State.pcPlus, BitVec.toNat_add, BitVec.toNat_ofNat]

/-- Settles O40: each of the instructions in question ends with the address after it, KBI where it does not wait. -/
theorem sequentialAdvance : Obligations.SequentialAdvance := by
  intro i s t h htransfers hwait
  cases i with
  | jcn _ _ | isz _ _ | jun _ | jms _ | bbl _ => cases htransfers
  | kbi =>
    obtain ⟨hwaits, -⟩ | ⟨-, rfl⟩ := exec_kbi_next h
    · exact absurd ⟨rfl, hwaits⟩ hwait
    · exact s.pcPlus_toNat 1
  | _ => cases h; exact s.pcPlus_toNat _

/-- Settles O41: an outcome is one of those in `exec_cases`, and each of the two faults is raised where it should be. -/
theorem faultsExactly : Obligations.FaultsExactly := by
  refine ⟨fun i s r h => ?_, fun i s r => ⟨fun h => ?_, ?_⟩⟩
  · obtain ⟨t, e⟩ | ⟨a, -, -, e⟩ | ⟨d, -, -, e⟩ := exec_cases i s
    all_goals cases e.symm.trans h
  · obtain ⟨t, e⟩ | ⟨a, hi, hfull, e⟩ | ⟨d, hi, hempty, e⟩ := exec_cases i s
    · cases e.symm.trans h
    · cases e.symm.trans h
      exact .inl ⟨a, hi, hfull, rfl⟩
    · cases e.symm.trans h
      exact .inr ⟨d, hi, hempty, rfl⟩
  · rintro (⟨a, rfl, hfull, rfl⟩ | ⟨d, rfl, hempty, rfl⟩)
    · exact jmsResult.2.2 a s hfull
    · exact bblResult.2.2 d s hempty

/-! ### HALTED -/

/-- The state with HALTED at a given value. -/
def State.withHalted (s : State) (b : Bool) : State := { s with halted := b }

/-- No instruction but HLT treats a state otherwise for its HALTED, nor writes it (R36). -/
theorem exec_withHalted {i : Instr} (hi : i ≠ .hlt) {s t : State} (h : exec i s = .next t) (b : Bool) :
    exec i (s.withHalted b) = .next (t.withHalted b) := by
  cases i with
  | hlt => exact absurd rfl hi
  | jms a =>
    obtain ⟨hroom, rfl⟩ := exec_jms_next h
    exact exec_jms_of_room (s := s.withHalted b) hroom a
  | bbl d =>
    obtain ⟨v, rest, hstack, rfl⟩ := exec_bbl_next h
    exact exec_bbl_of_stack (s := s.withHalted b) hstack d
  | kbi =>
    obtain ⟨hwaits, rfl⟩ | ⟨hready, rfl⟩ := exec_kbi_next h
    · exact if_pos hwaits
    · have hready' : (s.withHalted b).keyAwaited = false := hready
      exact if_neg (by simp [hready'])
  | jcn c a =>
    cases h
    cases hc : condTest c
    all_goals simp only [exec, execJcn, hc]; rfl
  | _ => cases h; rfl

/-- Settles O42: HLT sets HALTED whatever it was, and the others carry it along. -/
theorem haltedUnread : Obligations.HaltedUnread := by
  intro i s t b h
  by_cases hi : i = .hlt
  · subst hi
    cases h
    cases b <;> rfl
  · rw [decide_eq_false hi, Bool.or_false]
    exact exec_withHalted hi h b

end Sys2Proof.Machine
end

section
/-! PROOF. The invariant of the machine: what instructions, steps and moves of the host keep of it (spec rules R31, R39,
R66, R200). -/

namespace Sys2Proof.Machine

/-! ### Instructions and steps -/

/-- What an instruction can do to RAM: nothing, or store one byte. -/
theorem exec_mem {i : Instr} {s t : State} (h : exec i s = .next t) :
    t.mem = s.mem ∨ ∃ a v, t.mem = (s.writeByte a v).mem := by
  cases i with
  | sto r a => cases h; exact .inr ⟨a, s.reg r, rfl⟩
  | sti r => cases h; exact .inr ⟨s.pointer, s.reg r, rfl⟩
  | jms a =>
    obtain ⟨-, rfl⟩ := exec_jms_next h
    exact .inl rfl
  | bbl d =>
    obtain ⟨v, rest, -, rfl⟩ := exec_bbl_next h
    exact .inl rfl
  | kbi =>
    obtain ⟨-, rfl⟩ | ⟨-, rfl⟩ := exec_kbi_next h
    · exact .inl rfl
    · exact .inl rfl
  | jcn c a =>
    cases h
    cases hc : condTest c
    · exact .inl rfl
    · exact .inl rfl
  | _ => cases h; exact .inl rfl

/-- A push is made only below the capacity, so no instruction exceeds it (R31, R32). -/
theorem exec_stack_length_le {i : Instr} {s t : State} (h : exec i s = .next t)
    (hs : s.stack.length ≤ Config.stackDepth) : t.stack.length ≤ Config.stackDepth := by
  obtain hsame | ⟨a, rfl, -⟩ | ⟨d, v, -, hpop⟩ := stackOnlyByCalls i s t h
  · rwa [hsame]
  · obtain ⟨hroom, rfl⟩ := exec_jms_next h
    exact hroom
  · rw [hpop, List.length_cons] at hs
    exact Nat.le_of_succ_le hs

theorem exec_inv {i : Instr} {s t : State} (hs : s.inv) (h : exec i s = .next t) : t.inv := by
  obtain ⟨hmem, hstack, hupload⟩ := hs
  obtain ⟨-, -, -, -, -, -, -, -, -, hpin, -, hpc, -⟩ := exec_frame h
  refine ⟨?_, exec_stack_length_le h hstack, ?_⟩
  · obtain hsame | ⟨a, v, hstored⟩ := exec_mem h
    · rwa [hsame]
    · rw [hstored]
      exact State.writeByte_wf hmem a v
  · rwa [hpin, hpc]

/-- Settles O52: a step that answers a next state changes nothing or executes an instruction. -/
theorem stepKeepsInvariant : Obligations.StepKeepsInvariant := by
  intro s t hs h
  obtain ⟨r, -, e⟩ | ⟨-, -, e⟩ | ⟨i, -, -, e⟩ | ⟨-, -, e⟩ := step_cases s
  · cases e.symm.trans h
  · cases e.symm.trans h
    exact hs
  · exact exec_inv hs (e.symm.trans h)
  · cases e.symm.trans h

/-! ### Moves of the host -/

/-- All that a move of the host can do, and the level of the test pin it needs (R66, R200, R201). -/
theorem State.hostMove_cases {s t : State} {m : HostMove} (h : s.hostMove m = some t) :
    (s.testPin = false ∧ m = .raiseTestPin ∧ t = { s with testPin := true, uploadedPc := none }) ∨
    (s.testPin = true ∧ ((∃ level, t = { s with loadPin := level }) ∨ (∃ a v, t = s.writeByte a v) ∨
      (∃ a, t = { s with uploadedPc := some a }) ∨ ∃ entry start, t = s.startRun entry start)) := by
  cases m with
  | raiseTestPin =>
    obtain ⟨hpin, rfl⟩ : s.testPin = false ∧ _ = t := by simpa [State.hostMove] using h
    exact .inl ⟨hpin, rfl, rfl⟩
  | setLoadPin level =>
    obtain ⟨hpin, rfl⟩ : s.testPin = true ∧ _ = t := by simpa [State.hostMove] using h
    exact .inr ⟨hpin, .inl ⟨level, rfl⟩⟩
  | uploadByte a v =>
    obtain ⟨⟨hpin, -⟩, rfl⟩ : (s.testPin = true ∧ s.loadPin = true) ∧ _ = t := by simpa [State.hostMove] using h
    exact .inr ⟨hpin, .inr (.inl ⟨a, v, rfl⟩)⟩
  | uploadPc a =>
    obtain ⟨⟨hpin, -⟩, rfl⟩ : (s.testPin = true ∧ s.loadPin = false) ∧ _ = t := by simpa [State.hostMove] using h
    exact .inr ⟨hpin, .inr (.inr (.inl ⟨a, rfl⟩))⟩
  | releaseTestPin start =>
    obtain ⟨hpin, entry, -, rfl⟩ : s.testPin = true ∧ ∃ e, s.uploadedPc = some e ∧ s.startRun e start = t := by
      simpa [State.hostMove] using h
    exact .inr ⟨hpin, .inr (.inr (.inr ⟨entry, start, rfl⟩))⟩

/-- Settles O60: with the test pin high an uploaded PC is no breach of the invariant, and a release uses it up. -/
theorem hostConfined : Obligations.HostConfined := by
  refine ⟨fun s m t hlow h => ?_, fun s m t hs h => ?_⟩
  · obtain ⟨-, hm, ht⟩ | ⟨hhigh, -⟩ := State.hostMove_cases h
    · exact ⟨hm, ht⟩
    · cases hlow.symm.trans hhigh
  · obtain ⟨hmem, hstack, hupload⟩ := hs
    obtain ⟨-, -, rfl⟩ | ⟨hhigh, hmove⟩ := State.hostMove_cases h
    · exact ⟨hmem, hstack, fun _ => rfl⟩
    · obtain ⟨level, rfl⟩ | ⟨a, v, rfl⟩ | ⟨a, rfl⟩ | ⟨entry, start, rfl⟩ := hmove
      · exact ⟨hmem, hstack, hupload⟩
      · exact ⟨State.writeByte_wf hmem a v, hstack, hupload⟩
      · exact ⟨hmem, hstack, fun hlow => by cases hlow.symm.trans hhigh⟩
      · exact ⟨hmem, Nat.zero_le _, fun _ => rfl⟩

end Sys2Proof.Machine
end

section
/-! PROOF. The bootstrap sequence: the moves are possible one after the other, and what the upload leaves in RAM (spec
rules R39, R200 to R203). -/

namespace Sys2Proof.Machine

/-! ### The upload -/

/-- RAM with a list of bytes written one after the other. -/
def Memory.overlay (m : Memory) (upload : List (Addr × Byte)) : Memory :=
  upload.foldl (fun m c => m.write c.1.toNat c.2) m

/-- The host's upload changes nothing but RAM. -/
theorem State.overlay_eq (upload : List (Addr × Byte)) (s : State) :
    s.overlay upload = { s with mem := s.mem.overlay upload } := by
  induction upload generalizing s with
  | nil => rfl
  | cons c cs ih => exact ih (s.writeByte c.1 c.2)

theorem State.overlay_append (before after : List (Addr × Byte)) (s : State) :
    s.overlay (before ++ after) = (s.overlay before).overlay after := by
  induction before generalizing s with
  | nil => rfl
  | cons c cs ih => exact ih (s.writeByte c.1 c.2)

/-- A byte that the upload does not name is as before. -/
theorem State.overlay_readByte_of_ne {upload : List (Addr × Byte)} {a : Addr} (h : ∀ c ∈ upload, c.1 ≠ a)
    (s : State) : (s.overlay upload).readByte a = s.readByte a := by
  induction upload generalizing s with
  | nil => rfl
  | cons c cs ih =>
    obtain ⟨hc, hcs⟩ := List.forall_mem_cons.mp h
    calc ((s.writeByte c.1 c.2).overlay cs).readByte a
      _ = (s.writeByte c.1 c.2).readByte a := ih hcs _
      _ = s.readByte a := by rw [State.writeByte_readByte, if_neg hc.symm]

/-- A byte that the upload names holds what was uploaded there last. -/
theorem State.overlay_readByte_last (before : List (Addr × Byte)) {after : List (Addr × Byte)} {a : Addr} (v : Byte)
    (h : ∀ c ∈ after, c.1 ≠ a) (s : State) : (s.overlay (before ++ (a, v) :: after)).readByte a = v := by
  rw [State.overlay_append]
  calc (((s.overlay before).writeByte a v).overlay after).readByte a
    _ = ((s.overlay before).writeByte a v).readByte a := State.overlay_readByte_of_ne h _
    _ = v := by rw [State.writeByte_readByte, if_pos rfl]

/-! ### The moves -/

theorem State.hostMoves_append (ms ns : List HostMove) (s : State) :
    s.hostMoves (ms ++ ns) = (s.hostMoves ms).bind (·.hostMoves ns) := by
  induction ms generalizing s with
  | nil => rfl
  | cons m ms ih =>
    cases h : s.hostMove m with
    | none => simp [State.hostMoves, h]
    | some t => simp [State.hostMoves, h, ih]

/-- With both pins high every byte of the upload can be uploaded (R200 (2)). -/
theorem State.hostMoves_upload (upload : List (Addr × Byte)) {s : State} (htest : s.testPin = true)
    (hload : s.loadPin = true) :
    s.hostMoves (upload.map fun c => .uploadByte c.1 c.2) = some (s.overlay upload) := by
  induction upload generalizing s with
  | nil => rfl
  | cons c cs ih =>
    have hmove : s.hostMove (.uploadByte c.1 c.2) = some (s.writeByte c.1 c.2) := by
      simp [State.hostMove, htest, hload]
    rw [List.map_cons, State.hostMoves, hmove, Option.bind_some]
    exact ih htest hload

/-- The bootstrap sequence is possible while the test pin is low, and amounts to the launch (R200). -/
theorem State.hostMoves_bootstrap {s : State} (hlow : s.testPin = false) (upload : List (Addr × Byte)) (entry : Addr)
    (start : StartValues) : s.hostMoves (bootstrap upload entry start) = some (s.launch upload entry start) := by
  have hraise : s.hostMoves [.raiseTestPin, .setLoadPin true] =
      some { s with testPin := true, uploadedPc := none, loadPin := true } := by
    simp [State.hostMoves, State.hostMove, hlow]
  rw [bootstrap, State.hostMoves_append, State.hostMoves_append, hraise, Option.bind_some,
    State.hostMoves_upload upload rfl rfl, Option.bind_some, State.launch, State.overlay_eq, State.overlay_eq]
  rfl

/-- Settles O59. -/
theorem bootstrapLaunches : Obligations.BootstrapLaunches := by
  intro s upload entry start hlow
  refine ⟨State.hostMoves_bootstrap hlow upload entry start, ⟨rfl, rfl, rfl⟩, rfl, rfl, rfl, rfl, rfl, rfl,
    fun a ha => State.overlay_readByte_of_ne ha s, ?_⟩
  rintro a v before after rfl hafter
  exact State.overlay_readByte_last before v hafter s

end Sys2Proof.Machine
end

section
/-! PROOF. The obligations about several instructions in a row. The frames of the single instructions compose; what is
left is the arithmetic of a register pair and the ring of nine bits that ACC and C form (spec rules R110, R118 to R120,
R122, R129, R165, R166). -/

namespace Sys2Proof.Machine

/-! ### Frames in a row -/

theorem OnlyChanges.trans {ch : List Item} {s t u : State} (h : OnlyChanges ch s t) (h' : OnlyChanges ch t u) :
    OnlyChanges ch s u := by
  obtain ⟨hreg, hacc, hcarry, hstack, hmem, hhalted, hout, hdraws, hmark, htest, hload, hpc, hkbi⟩ := h
  obtain ⟨hreg', hacc', hcarry', hstack', hmem', hhalted', hout', hdraws', hmark', htest', hload', hpc', hkbi'⟩ := h'
  exact ⟨fun q hq => (hreg' q hq).trans (hreg q hq), fun hn => (hacc' hn).trans (hacc hn),
    fun hn => (hcarry' hn).trans (hcarry hn), fun hn => (hstack' hn).trans (hstack hn),
    fun a ha => (hmem' a ha).trans (hmem a ha), fun hn => (hhalted' hn).trans (hhalted hn),
    fun hn => (hout' hn).trans (hout hn), fun hn => (hdraws' hn).trans (hdraws hn), hmark'.trans hmark,
    htest'.trans htest, hload'.trans hload, hpc'.trans hpc, hkbi'.trans hkbi⟩

theorem OnlyChanges.mono {ch ch' : List Item} (hsub : ch ⊆ ch') {s t : State} (h : OnlyChanges ch s t) :
    OnlyChanges ch' s t := by
  obtain ⟨hreg, hacc, hcarry, hstack, hmem, hhalted, hout, hdraws, hrest⟩ := h
  exact ⟨fun q => hreg q ∘ mt (@hsub _), hacc ∘ mt (@hsub _), hcarry ∘ mt (@hsub _), hstack ∘ mt (@hsub _),
    fun a => hmem a ∘ mt (@hsub _), hhalted ∘ mt (@hsub _), hout ∘ mt (@hsub _), hdraws ∘ mt (@hsub _), hrest⟩

/-- Where ACC and C end as they began, they have not changed. -/
theorem OnlyChanges.restored {s t : State} (h : OnlyChanges [.acc, .carry] s t) (hacc : t.acc = s.acc)
    (hcarry : t.carry = s.carry) : OnlyChanges [] s t := by
  obtain ⟨hreg, -, -, hstack, hmem, hhalted, hout, hdraws, hrest⟩ := h
  exact ⟨fun q _ => hreg q (by simp), fun _ => hacc, fun _ => hcarry, fun _ => hstack (by simp),
    fun a _ => hmem a (by simp), fun _ => hhalted (by simp), fun _ => hout (by simp), fun _ => hdraws (by simp), hrest⟩

/-- Settles O55: BBL pops what JMS pushed. -/
theorem callThenReturn : Obligations.CallThenReturn := by
  intro a d s hroom
  exact ⟨_, _, exec_jms_of_room hroom a, exec_bbl_of_stack rfl d, rfl, rfl, rfl, s.setAcc_setPc_frame (immediate d) _⟩

/-! ### A register pair -/

theorem pair_toNat (hi lo : Byte) : (hi ++ lo : Addr).toNat = lo.toNat + 256 * hi.toNat :=
  addrField_toNat lo hi

/-- Adding 1 to the low byte and its carry out to the high byte adds 1 to the pair. -/
theorem pair_increment {hi lo hi' lo' : Byte} {c : Bool} (hlo : lo'.toNat = (lo.toNat + 1) % 256)
    (hc : c = true ↔ lo = 0xFF) (hhi : hi'.toNat = (hi.toNat + c.toNat) % 256) :
    (hi' ++ lo' : Addr) = (hi ++ lo) + (1 : Addr) := by
  apply BitVec.eq_of_toNat_eq
  rw [BitVec.toNat_add, pair_toNat, pair_toNat, hlo, hhi]
  rw [← BitVec.toNat_inj] at hc
  have hlt := lo.isLt
  cases c
  · simp only [Bool.false_eq_true, false_iff, BitVec.reduceToNat] at hc
    simp only [Bool.toNat_false, BitVec.reduceToNat]
    omega
  · simp only [true_iff, BitVec.reduceToNat] at hc
    simp only [Bool.toNat_true, BitVec.reduceToNat]
    omega

theorem pair_eq_max_iff (hi lo : Byte) : (hi ++ lo : Addr) = 0xFFFF ↔ lo = 0xFF ∧ hi = 0xFF := by
  rw [← BitVec.toNat_inj, ← BitVec.toNat_inj, ← BitVec.toNat_inj, pair_toNat]
  have hlo := lo.isLt
  have hhi := hi.isLt
  simp only [BitVec.reduceToNat]
  omega

/-- Settles O56: INC carries out of the low register exactly where it was 0xFF, and INO adds that carry. -/
theorem incrementPair : Obligations.IncrementPair := by
  intro lo hi s hne
  obtain ⟨t, ht, hlo, hc, -, frame⟩ := incResult.2 lo s
  obtain ⟨u, hu, hhi, hc', -, frame'⟩ := inoResult.2 hi t
  have hkeepHi : t.reg hi = s.reg hi := frame.1 hi (by simp [hne.symm])
  have hkeepLo : u.reg lo = t.reg lo := frame'.1 lo (by simp [hne])
  rw [hkeepHi] at hhi hc'
  refine ⟨t, u, ht, hu, ?_, ?_, (frame.mono (by simp)).trans (frame'.mono (by simp))⟩
  · rw [hkeepLo]
    exact pair_increment hlo hc hhi
  · rw [hc', hc, pair_eq_max_iff]

/-! ### The ring of ACC and C -/

/-- Bit k of the ring of nine bits, counted on round it: ACC is bits 0 to 7 and C is bit 8. -/
def State.ringBit (s : State) (k : Nat) : Bool := if k % 9 = 8 then s.carry else s.acc.getLsbD (k % 9)

/-- The ring determines ACC and C. -/
theorem State.eq_of_ringBit_eq {s t : State} (h : ∀ k, t.ringBit k = s.ringBit k) :
    t.acc = s.acc ∧ t.carry = s.carry := by
  refine ⟨BitVec.eq_of_getLsbD_eq fun k hk => ?_, h 8⟩
  have hmod : k % 9 = k := by omega
  have hne : k ≠ 8 := by omega
  simpa [State.ringBit, hmod, hne] using h k

theorem State.ringBit_add_nine (s : State) (k : Nat) : s.ringBit (k + 9) = s.ringBit k := by simp [State.ringBit]

/-- The step from one place of the ring to the next, by the bit of it that the place holds: C, bit 7 of ACC, or a lower
one. -/
theorem ring_succ_cases (k : Nat) : k % 9 = 8 ∧ (k + 1) % 9 = 0 ∨ k % 9 = 7 ∧ (k + 1) % 9 = 8 ∨
    k % 9 < 7 ∧ (k + 1) % 9 = k % 9 + 1 := by
  omega

/-- RAL turns the ring one place to the left, and moves PC by 1 (R165). -/
theorem exec_ral_ring (s : State) : ∃ t, exec .ral s = .next t ∧ (∀ k, t.ringBit (k + 1) = s.ringBit k) ∧
    t.pc = s.pc + 1 ∧ OnlyChanges [.acc, .carry] s t := by
  refine ⟨_, rfl, fun k => ?_, rfl, s.setAcc_setCarry_setPc_frame _ _ _⟩
  show (if (k + 1) % 9 = 8 then rollLeftCarry s.acc else (rollLeft s.acc s.carry).getLsbD ((k + 1) % 9)) = s.ringBit k
  rw [State.ringBit, rollLeft_bit, rollLeftCarry]
  obtain ⟨h, hnext⟩ | ⟨h, hnext⟩ | ⟨h, hnext⟩ := ring_succ_cases k
  · simp [h, hnext]
  · simp [h, hnext]
  · have hne : k % 9 ≠ 8 := by omega
    have hlt : k % 9 + 1 < 8 := by omega
    simp [hnext, h.ne, hne, hlt]

/-- RAR turns the ring one place to the right (R166). -/
theorem exec_rar_ring (s : State) : ∃ t, exec .rar s = .next t ∧ ∀ k, t.ringBit k = s.ringBit (k + 1) := by
  refine ⟨_, rfl, fun k => ?_⟩
  show (if k % 9 = 8 then rollRightCarry s.acc else (rollRight s.acc s.carry).getLsbD (k % 9)) = s.ringBit (k + 1)
  rw [State.ringBit, rollRight_bit, rollRightCarry]
  obtain ⟨h, hnext⟩ | ⟨h, hnext⟩ | ⟨h, hnext⟩ := ring_succ_cases k
  · simp [h, hnext]
  · simp [h, hnext]
  · have hne : k % 9 ≠ 8 := by omega
    simp [hnext, h, h.ne, hne]

/-- n RAL in a row turn the ring n places to the left, and move PC by n. -/
theorem execTimes_ral_ring (n : Nat) (s : State) : ∃ t, execTimes .ral n s = .next t ∧
    (∀ k, t.ringBit (k + n) = s.ringBit k) ∧ t.pc = s.pc + BitVec.ofNat 16 n ∧ OnlyChanges [.acc, .carry] s t := by
  induction n generalizing s with
  | zero => exact ⟨s, rfl, fun k => rfl, (BitVec.add_zero s.pc).symm, OnlyChanges.refl _ s⟩
  | succ n ih =>
    obtain ⟨t, ht, hring, hpc, frame⟩ := exec_ral_ring s
    obtain ⟨u, hu, hring', hpc', frame'⟩ := ih t
    refine ⟨u, ?_, fun k => ?_, ?_, frame.trans frame'⟩
    · rw [execTimes, ht]
      exact hu
    · rw [← hring k, ← hring' (k + 1), Nat.add_right_comm, Nat.add_assoc]
    · rw [hpc', hpc, BitVec.add_assoc, Nat.add_comm n 1, BitVec.ofNat_add]
      rfl

/-- Settles O57: a turn to the left and one to the right cancel, and nine turns of a ring of nine bits are none. -/
theorem rollsUndo : Obligations.RollsUndo := by
  refine ⟨fun s => ?_, fun s => ?_, fun s => ?_⟩
  · obtain ⟨t, ht, hleft, -, -⟩ := exec_ral_ring s
    obtain ⟨u, hu, hright⟩ := exec_rar_ring t
    exact ⟨t, u, ht, hu, State.eq_of_ringBit_eq fun k => (hright k).trans (hleft k)⟩
  · obtain ⟨t, ht, hright⟩ := exec_rar_ring s
    obtain ⟨u, hu, hleft, -, -⟩ := exec_ral_ring t
    have hsucc (k : Nat) : u.ringBit (k + 1) = s.ringBit (k + 1) := (hleft k).trans (hright k)
    refine ⟨t, u, ht, hu, State.eq_of_ringBit_eq fun k => ?_⟩
    rw [← u.ringBit_add_nine, ← s.ringBit_add_nine]
    exact hsucc (k + 8)
  · obtain ⟨t, ht, hring, hpc, frame⟩ := execTimes_ral_ring 9 s
    obtain ⟨hacc, hcarry⟩ := State.eq_of_ringBit_eq fun k => (t.ringBit_add_nine k).symm.trans (hring k)
    exact ⟨t, ht, hpc, frame.restored hacc hcarry⟩

/-! ### A stored byte -/

/-- Settles O58: loads and fetches read RAM as the store left it. -/
theorem storedByteSeen : Obligations.StoredByteSeen := by
  intro r a q s
  refine ⟨_, _, rfl, rfl, ?_, fun k => State.writeByte_readByte s a (s.reg r) _⟩
  have hread : (s.writeByte a (s.reg r)).readByte a = s.reg r := by rw [State.writeByte_readByte, if_pos rfl]
  exact (State.setReg_setPc_result _ q _ _).1.trans hread

end Sys2Proof.Machine
end
